-- ==== Sys2Proof/Word.lean ====
section
/-! DEFINITION. The two word sizes of the block: a byte (00_scope.md section 6) and the 16-bit CRC
accumulator's word (10_state.md R10). -/

namespace Sys2Proof

/-- A byte: 8 bits, unsigned (00_scope.md section 6). -/
abbrev Byte := BitVec 8

/-- A 16-bit unsigned value: the accumulator and the CRC (10_state.md R10, 40_crc16.md R77). -/
abbrev Half := BitVec 16

end Sys2Proof
end

