-- ==== Sys2Proof/Config.lean ====
section
/-! DEFINITION. What a build of the block fixes (00_scope.md R1 to R6), the shape of the environment's
answers, and the free values: every value the spec calls unspecified or leaves to the peer, as opaque
constants of which nothing can be proved. -/

namespace Sys2Proof

/-- The build-time parameter MODE (00_scope.md R1). -/
inductive Mode where
  | k1    -- N = 1024
  | b128  -- N = 128
  deriving DecidableEq, Repr, Inhabited

/-- The parameters of one build. They are no registers (10_state.md R19); State carries them so that a
statement speaks of every build (log 5). MAX_SENDS is `maxRetry + 1` (R6). -/
structure BuildConfig where
  mode     : Mode
  /-- MAX_RETRY, the retry ceiling (R6); 4 bits, the width of RETRY (10_state.md R12). -/
  maxRetry : BitVec 4
  deriving DecidableEq, Repr, Inhabited

/-- This hardware's build: MODE = K1 (R1, D21), MAX_RETRY = 10 (R6, D6). -/
def BuildConfig.thisHardware : BuildConfig := { mode := .k1, maxRetry := 10 }

/-- The outcome of a link primitive that returns no data (20_memory.md R37) and of a source read (R36). -/
inductive IoResult where
  | ok
  | ioError
  deriving DecidableEq, Repr, Inhabited

/-- What the peer and the transport do at one link primitive: the bytes that arrive in RXBUF before the
primitive takes effect (for a read: before its timeout runs out), and whether the primitive fails
(20_memory.md R37, R38, R44). Any sequence of outcomes R44 allows is a sequence of turns (log 6, log 24). -/
structure LinkTurn where
  arrivals : List Byte
  result   : IoResult
  deriving DecidableEq, Repr, Inhabited

/-! The free values. The Nat is a counter of State read and advanced at each use. -/

/-- What the peer does at a link primitive for which nothing is scripted (20_memory.md R44; log 6). -/
opaque Config.freeTurn : Nat → LinkTurn

/-- The outcome of a source read for which nothing is scripted (20_memory.md R36; log 7). -/
opaque Config.freeSource : Nat → IoResult

/-- RXBUF after a failed clear or a failed read, from what it held before (20_memory.md R37, 93 U29; log 8). -/
opaque Config.freeRx : Nat → List Byte → List Byte

/-- How many bytes a failed write appended or a failed flush handed over (20_memory.md R37, 93 U28; log 8). -/
opaque Config.freeCount : Nat → Nat

/-- SRCPOS after a failed source read (20_memory.md R36, 93 U27; log 9). -/
opaque Config.freePos : Nat → Nat

/-- ACC where the spec leaves it unspecified (41_frame_encoder.md R96, 70_reset_and_hazards.md R171; log 9, log 10). -/
opaque Config.freeAcc : Nat → Half

/-- RLEN where the spec leaves it unspecified (R96, R171; log 9, log 10). -/
opaque Config.freeRlen : Nat → BitVec 11

/-- EOF where the spec leaves it unspecified (R96, R171; log 9, log 10). -/
opaque Config.freeEof : Nat → Bool

/-- The frame buffer's byte at an index after a failed source read (R96, 93 U27; log 9). -/
opaque Config.freeFrameByte : Nat → Nat → Byte

/-- BLK after a hardware reset (R171; log 10). -/
opaque Config.freeBlk : Nat → Byte

/-- RETRY after a hardware reset (R171; log 10). -/
opaque Config.freeRetry : Nat → BitVec 4

/-- ERRINFO after a hardware reset (R171; log 10). -/
opaque Config.freeErrInfo : Nat → Byte

end Sys2Proof
end

