-- ==== Sys2Proof/Syntax.lean ====
section
/-! DEFINITION. The operations of the block, one constructor per row of spec/opcode_table.json, and the
coded forms in which they reach it (30_encoding.md section 1). -/

namespace Sys2Proof

/-- The operations (00_scope.md section 3.4: an instruction is an operation). -/
inductive Instr where
  /-- MAGIC_128: a data frame with a 128-byte payload, field by field (30_encoding.md R50, R52). -/
  | magic128 (id cmpl : Byte) (payload : List Byte) (crcHi crcLo : Byte)
  /-- MAGIC_1K: a data frame with a 1024-byte payload, field by field (R50, R52). -/
  | magic1k (id cmpl : Byte) (payload : List Byte) (crcHi crcLo : Byte)
  /-- EOT 0x04, block to peer (R51, R52). -/
  | eot
  /-- ACK 0x06, peer to block (R51, R52). -/
  | ack
  /-- NAK 0x15, peer to block (R51, R52). -/
  | nak
  /-- CAN 0x18, peer to block, received but unhandled (R59). -/
  | can
  /-- CRCREQ, the character 'C', peer to block (R60). -/
  | crcreq
  /-- CRC.CLR (40_crc16.md R73). -/
  | crcClr
  /-- CRC.UPD b (R74). -/
  | crcUpd (b : Byte)
  /-- CRC.RD (R75). -/
  | crcRd
  /-- XFER.START img (42_transfer_fsm.md R100). -/
  | xferStart (img : List Byte)
  /-- FRM.CHK F (43_decoder.md R132). -/
  | frmChk (f : List Byte)
  /-- FRM.BUILD, selected by PHASE = 1 (41_frame_encoder.md R85). -/
  | frmBuild
  /-- FRM.SEND, selected by PHASE = 2 (42_transfer_fsm.md R103). -/
  | frmSend
  /-- EOT.SEND, selected by PHASE = 3 (R111). -/
  | eotSend
  /-- CRC.BLK s, a pseudo-operation without a code (40_crc16.md R76). -/
  | crcBlk (s : List Byte)
  /-- XFER.RUN img, a pseudo-operation without a code (42_transfer_fsm.md R101, R128). -/
  | xferRun (img : List Byte)
  /-- FRM.SENDRETRY, a pseudo-operation without a code (R127). -/
  | frmSendretry
  /-- RSP.DEC b, an internal function without a code (43_decoder.md R130). -/
  | rspDec (b : Byte)
  deriving DecidableEq, Repr

/-- The three kinds of bits that select an operation (30_encoding.md section 1, R67). -/
inductive Code where
  /-- Bytes of a wire unit, first transmitted first (R50, R51). -/
  | wire (bytes : List Byte)
  /-- A command on the command port: CMD[3:0], and the operand lines, a byte and a byte sequence, of
  which an operation reads the one it has (R62; log 11). -/
  | cmd (code : BitVec 4) (operand : Byte) (seq : List Byte)
  /-- The phase code PHASE[2:0] (R63). -/
  | phase (code : BitVec 3)
  deriving DecidableEq, Repr

/-- Why a coded form is no operation. -/
inductive DecodeError where
  /-- No byte at all. -/
  | emptyUnit
  /-- A first byte with no name and no meaning of its own (30_encoding.md R52). -/
  | unnamedSymbol (b : Byte)
  /-- A magic byte followed by fewer bytes than its unit has (R56). -/
  | truncatedFrame (length : Nat)
  /-- CMD 0x0 or 0x6 to 0xF (R62, R64). -/
  | unassignedCommand (code : BitVec 4)
  /-- A phase code that selects no micro-operation (R63). -/
  | noMicroOperation (code : BitVec 3)
  deriving DecidableEq, Repr

/-- What the decoder answers: an operation and the wire bytes after its unit, or a rejection by name. -/
inductive Decoded where
  | ok (i : Instr) (rest : List Byte)
  | reject (e : DecodeError)
  deriving DecidableEq, Repr

end Sys2Proof
end

