-- ==== Sys2Proof/Machine/State.lean ====
section
/-! DEFINITION. The state of the block and of the environment its operations read and write
(10_state.md), as plain data; the reasons a step can stop; the state after reset
(70_reset_and_hazards.md R171, R173). -/

namespace Sys2Proof.Machine

/-- The phase register's six values (10_state.md R16); codes 6 and 7 are unrepresentable (30_encoding.md R64). -/
inductive Phase where
  | idle | build | send | eot | done | error
  deriving DecidableEq, Repr

/-- The error register's six values (10_state.md R17). -/
inductive ErrCode where
  | none | linkIoError | linkTimeout | transferAborted | unknownProtocolByte | sourceIoError
  deriving DecidableEq, Repr

/-- What `LinkReadByte()` returns (20_memory.md R38). -/
inductive ReadResult where
  | byte (b : Byte)
  | timeout
  | ioError
  deriving DecidableEq, Repr

/-- An event of TXLOG (10_state.md R21): a link primitive, its argument in full, its outcome (93 U28). -/
inductive LinkEvent where
  | clearRx (r : IoResult)
  | write (bytes : List Byte) (r : IoResult)
  | flush (r : IoResult)
  | read (r : ReadResult)
  deriving DecidableEq, Repr

/-- What RSP.DEC answers (43_decoder.md R130). -/
inductive Response where
  | ack
  | nak
  | other (b : Byte)
  deriving DecidableEq, Repr

/-- Why FRM.CHK finds a frame invalid (43_decoder.md R132). -/
inductive CheckReason where
  | badLength | badMagic | badComplement | badCrc
  deriving DecidableEq, Repr

/-- What FRM.CHK answers (43_decoder.md R132). -/
inductive CheckResult where
  | valid (id : Byte) (payload : List Byte)
  | invalid (reason : CheckReason)
  deriving DecidableEq, Repr

/-- A result handed to the host (30_encoding.md R62, 70_reset_and_hazards.md R192). -/
inductive Reply where
  /-- of CRC.RD and CRC.BLK -/
  | crc (v : Half)
  /-- of FRM.CHK and of a data unit presented to the frame decoder -/
  | check (r : CheckResult)
  /-- of XFER.START and XFER.RUN, when the engine has ended: the final PHASE and ERR -/
  | status (phase : Phase) (err : ErrCode)
  /-- of RSP.DEC -/
  | response (r : Response)
  deriving DecidableEq, Repr

/-- The frame buffer's memory: (index, byte) pairs, indexes strictly rising. An index that is not listed
holds no value (10_state.md R26, 70_reset_and_hazards.md R171; log 3). -/
abbrev Memory := List Host.Cell

/-- The link as the block sees it (20_memory.md section 1), with what the peer will do. -/
structure Link where
  /-- RXBUF (10_state.md R22): bytes received and not yet read or discarded, oldest first. -/
  rxbuf       : List Byte
  /-- TXLOG (R21), oldest event first. -/
  txLog       : List LinkEvent
  /-- The transmit stream (20_memory.md R30): every byte written on the link, oldest first (log 20). -/
  txStream    : List Byte
  /-- How many bytes of the transmit stream a flush has handed to the transport (20_memory.md R37; log 20). -/
  txFlushed   : Nat
  /-- The link's read timeout (10_state.md R23, 00_scope.md R8); the block never reads or writes it. -/
  readTimeout : Nat
  /-- The link's baud rate (10_state.md R23); the block never reads or writes it. -/
  baudRate    : Nat
  /-- What the peer does at the coming primitives, next first (20_memory.md R44, 43_decoder.md R140; log 6). -/
  turns       : List LinkTurn
  /-- The model's own: how many free values of the link have been used (log 6). -/
  draws       : Nat
  deriving DecidableEq, Repr

/-- The image source (10_state.md R20), with the outcomes of its coming reads. -/
structure Source where
  /-- IMG. -/
  img   : List Byte
  /-- SRCPOS. -/
  pos   : Nat
  /-- The outcomes of the coming reads, next first (20_memory.md R36; log 7). -/
  turns : List IoResult
  /-- The model's own: how many free values of the source have been used (log 7). -/
  draws : Nat
  deriving DecidableEq, Repr

/-- The whole state. -/
structure State where
  /-- The build's parameters (00_scope.md R1, R6; 10_state.md R19). No step changes them. -/
  cfg        : BuildConfig
  /-- ACC, the CRC accumulator (10_state.md R10). -/
  acc        : Half
  /-- ACC has been written since reset: the condition R64 puts on CRC.UPD and CRC.RD (10_state.md R10, R26,
  30_encoding.md R64; log 2). -/
  accWritten : Bool
  /-- BLK, the block counter (10_state.md R11). -/
  blk        : Byte
  /-- RETRY (10_state.md R12). -/
  retry      : BitVec 4
  /-- RLEN (10_state.md R13). -/
  rlen       : BitVec 11
  /-- EOF, the block's only flag (10_state.md R15). -/
  eof        : Bool
  /-- FB, the frame buffer (10_state.md R14, 20_memory.md R31). -/
  fb         : Memory
  /-- PHASE (10_state.md R16). -/
  phase      : Phase
  /-- ERR (10_state.md R17). -/
  err        : ErrCode
  /-- ERRINFO (10_state.md R18). -/
  errinfo    : Byte
  /-- The image source (10_state.md R20). -/
  src        : Source
  /-- The link (10_state.md R21, R22, R23). -/
  link       : Link
  /-- PROG: the block ids of the progress events so far (10_state.md R24). -/
  prog       : List Byte
  /-- The result the host last received (30_encoding.md R62; log 16). -/
  reply      : Option Reply
  /-- Requests that wait for the block, next first: host commands and wire units (log 11). -/
  inputs     : List Code
  /-- A hardware reset is requested (42_transfer_fsm.md R117; log 10). -/
  resetReq   : Bool
  /-- The model's own: how many free values of the block have been used (log 9, log 10). -/
  draws      : Nat
  deriving DecidableEq, Repr

/-- Why the machine stops with a fault. -/
inductive Fault where
  /-- A frame-buffer index outside 0 to FRAME_LEN - 1. Raised by the frame-buffer accessors; the spec says
  such an index cannot arise (20_memory.md R35), and no operation makes one. Safe. -/
  | frameIndex (index : Nat)
  deriving DecidableEq, Repr

/-- Why a request has no meaning ("refused", 30_encoding.md R64). -/
inductive Refusal where
  /-- Raised by an arm of exec for an operation the model does not have. Safe. -/
  | notModelled (mnemonic : String)
  /-- A host operation while the engine runs; raised by the host operations (20_memory.md R40,
  40_crc16.md R73, 93 U24). Safe. -/
  | engineRunning
  /-- XFER.START in DONE or ERROR; raised by XFER.START and XFER.RUN (30_encoding.md R64,
  60_exceptions.md R154). Safe. -/
  | transferEnded
  /-- CRC.UPD or CRC.RD when nothing has written ACC since reset; raised by the two (30_encoding.md R64,
  40_crc16.md R74, R75, 93 U21). Safe. -/
  | accUnwritten
  /-- A read of a frame-buffer byte that nothing has written; raised by the frame-buffer accessor
  (10_state.md R26). Safe. -/
  | frameByteUnwritten (index : Nat)
  /-- A micro-operation in a phase that does not select it; raised by FRM.BUILD, FRM.SEND, EOT.SEND and
  FRM.SENDRETRY (30_encoding.md R63, 42_transfer_fsm.md R117; log 17). Safe. -/
  | notSelected (phase : Phase)
  /-- A CMD value with no operation; raised by the fetch (30_encoding.md R64). Safe. -/
  | unassignedCommand (code : BitVec 4)
  deriving DecidableEq, Repr

/-- The link at State.reset: nothing received, sent or logged. DESIGN CHOICE, unsafe (log 4): the link is no
part of the block and reset gives it no value (70_reset_and_hazards.md R173). -/
def Link.reset : Link where
  rxbuf := []
  txLog := []
  txStream := []
  txFlushed := 0
  readTimeout := 0
  baudRate := 0
  turns := []
  draws := 0

/-- The image source at State.reset: empty. DESIGN CHOICE, unsafe (log 4): XFER.START gives it
(70_reset_and_hazards.md R173). -/
def Source.reset : Source where
  img := []
  pos := 0
  turns := []
  draws := 0

/-- The machine right after reset (70_reset_and_hazards.md R171, R173). PHASE and ERR are the spec's. ACC,
BLK, RETRY, RLEN, EOF and ERRINFO are unspecified there: DESIGN CHOICE zero, unsafe (log 1). FB holds no
value. -/
def State.reset : State where
  cfg := BuildConfig.thisHardware
  acc := 0
  accWritten := false
  blk := 0
  retry := 0
  rlen := 0
  eof := false
  fb := []
  phase := .idle
  err := .none
  errinfo := 0
  src := Source.reset
  link := Link.reset
  prog := []
  reply := none
  inputs := []
  resetReq := false
  draws := 0

end Sys2Proof.Machine
end

