-- ==== Sys2Proof/Machine/Wire.lean ====
section
/-! DEFINITION. The wire constants, the build's derived parameters, the CRC functions and the frame, all
pure (00_scope.md R2 to R7; 40_crc16.md R70 to R72; 30_encoding.md R50 to R55; 41_frame_encoder.md R92). -/

namespace Sys2Proof.Machine

/-! The symbols (30_encoding.md R52). -/

/-- MAGIC_128. -/
def magic128Byte : Byte := 0x01
/-- MAGIC_1K. -/
def magic1kByte : Byte := 0x02
/-- EOT. -/
def eotByte : Byte := 0x04
/-- ACK. -/
def ackByte : Byte := 0x06
/-- NAK. -/
def nakByte : Byte := 0x15
/-- CAN. -/
def canByte : Byte := 0x18
/-- CRCREQ, the character 'C'. PRESUMED 0x43, its ASCII code, as the spec itself says (R7, 93 G2; log 21):
safe, since 0x43 is treated like every other unnamed answer. -/
def crcreqByte : Byte := 0x43

/-! The parameters that follow from MODE (00_scope.md R2, R3, R4). -/

/-- N, the payload size (R2). -/
def payloadLen : Mode → Nat
  | .k1 => 1024
  | .b128 => 128

/-- MAGIC (R3). -/
def magicByte : Mode → Byte
  | .k1 => magic1kByte
  | .b128 => magic128Byte

/-- FRAME_LEN = N + 5 (R4). -/
def frameLen (m : Mode) : Nat := payloadLen m + 5

/-! Byte pairs (00_scope.md section 6). -/

/-- `hi8(v) = v[15:8]`. -/
def hi8 (v : Half) : Byte := v.extractLsb' 8 8
/-- `lo8(v) = v[7:0]`. -/
def lo8 (v : Half) : Byte := v.extractLsb' 0 8
/-- `be16(h, l) = h * 256 + l` (20_memory.md R32). -/
def be16 (h l : Byte) : Half := h ++ l

/-! The CRC (40_crc16.md section 2). -/

/-- POLY (00_scope.md R5). -/
def poly : Half := 0x1021

/-- One round (R70): the test is on bit 15 before the shift. -/
def crcRound (a : Half) : Half :=
  if a.getLsbD 15 then (a <<< 1) ^^^ poly else a <<< 1

/-- `k` rounds. -/
def crcRounds : Nat → Half → Half
  | 0, a => a
  | k + 1, a => crcRounds k (crcRound a)

/-- One input byte (R71): it enters bits 15:8, then exactly eight rounds. -/
def crcByte (a : Half) (b : Byte) : Half :=
  crcRounds 8 (a ^^^ (b.zeroExtend 16 <<< 8))

/-- The CRC continued from `a` over the bytes of `s` in increasing order (R72, R80 (d)). -/
def crcFrom (a : Half) (s : List Byte) : Half := s.foldl crcByte a

/-- A whole buffer, from INIT = 0 (R72, 00_scope.md R5). -/
def crc16 (s : List Byte) : Half := crcFrom 0 s

/-! The frame (30_encoding.md R50, R53, R54, R55). -/

/-- The complement field, 255 - ID (R53). -/
def complement (id : Byte) : Byte := 255 - id

/-- The bytes of a data unit in transmission order, field by field (R50). -/
def dataUnit (magic id cmpl : Byte) (payload : List Byte) (crcHi crcLo : Byte) : List Byte :=
  magic :: id :: cmpl :: (payload ++ [crcHi, crcLo])

/-- The payload of a chunk: its bytes, then zero fill to N (41_frame_encoder.md R86, R87). -/
def payloadOf (m : Mode) (chunk : List Byte) : List Byte :=
  chunk ++ List.replicate (payloadLen m - chunk.length) 0

/-- `frame(s, b)` (41_frame_encoder.md R92). -/
def frame (m : Mode) (chunk : List Byte) (id : Byte) : List Byte :=
  dataUnit (magicByte m) id (complement id) (payloadOf m chunk)
    (hi8 (crc16 (payloadOf m chunk))) (lo8 (crc16 (payloadOf m chunk)))

end Sys2Proof.Machine
end

