-- ==== Sys2Proof/Machine/Flags.lean ====
section
/-! DEFINITION. The block's only flag, EOF (10_state.md R15). There are no condition codes. -/

namespace Sys2Proof.Machine

/-- EOF after a source read of at most N bytes returned `length` of them: set exactly on a short read
(41_frame_encoder.md R88). -/
def eofFlag (m : Mode) (length : Nat) : Bool := decide (length < payloadLen m)

end Sys2Proof.Machine
end

