-- ==== Sys2Proof/Machine/Operands.lean ====
section
/-! DEFINITION. What operations read: the register codes, the conditions on PHASE, ACC and RETRY, the
frame buffer's bytes, the response byte. -/

namespace Sys2Proof.Machine

/-! The codes of the phase and error registers. -/

/-- PHASE[2:0] (10_state.md R16). -/
def Phase.code : Phase → BitVec 3
  | .idle => 0
  | .build => 1
  | .send => 2
  | .eot => 3
  | .done => 4
  | .error => 5

/-- ERR[2:0] (10_state.md R17). -/
def ErrCode.code : ErrCode → BitVec 3
  | .none => 0
  | .linkIoError => 1
  | .linkTimeout => 2
  | .transferAborted => 3
  | .unknownProtocolByte => 4
  | .sourceIoError => 5

/-- The phase whose code is `c`, where there is one. -/
def phaseOfCode (c : BitVec 3) : Option Phase :=
  [Phase.idle, .build, .send, .eot, .done, .error].find? (fun p => p.code = c)

/-- The engine is between XFER.START and DONE or ERROR (20_memory.md R40). -/
def Phase.running : Phase → Bool
  | .build | .send | .eot => true
  | .idle | .done | .error => false

/-! Sequencing of outcomes. -/

/-- Go on with the value of a next outcome; a fault or a refusal stays. -/
def andThen {α β : Type} (o : Host.Outcome α Fault Refusal) (k : α → Host.Outcome β Fault Refusal) :
    Host.Outcome β Fault Refusal :=
  match o with
  | .next a => k a
  | .fault f => .fault f
  | .refused r => .refused r

/-! Conditions under which a request is accepted. -/

/-- A host operation: it cannot be issued while the engine runs (20_memory.md R40, 93 U24). -/
def hostOperation (s : State) (k : Host.Outcome State Fault Refusal) : Host.Outcome State Fault Refusal :=
  if s.phase.running then .refused .engineRunning else k

/-- The value of ACC; refused when nothing has written it since reset (10_state.md R10, R26, 30_encoding.md R64,
40_crc16.md R74, R75). -/
def readAcc (s : State) : Host.Outcome Half Fault Refusal :=
  if s.accWritten then .next s.acc else .refused .accUnwritten

/-- RETRY = MAX_RETRY: no retry is left (42_transfer_fsm.md R106, R114). -/
def retryExhausted (s : State) : Bool := s.retry == s.cfg.maxRetry

/-- MAX_SENDS = MAX_RETRY + 1 (00_scope.md R6). -/
def maxSends (c : BuildConfig) : Nat := c.maxRetry.toNat + 1

/-! The frame buffer. -/

/-- The byte listed for an index, none where nothing has written it. -/
def Memory.read : Memory → Nat → Option Byte
  | [], _ => none
  | (b, v) :: m, a => if a = b then some v else Memory.read m a

/-- `FB[i]` (20_memory.md R31, R35): a fault outside the frame, refused where nothing has written the byte
(10_state.md R26). -/
def readFrameByte (s : State) (i : Nat) : Host.Outcome Byte Fault Refusal :=
  if i < frameLen s.cfg.mode then
    match Memory.read s.fb i with
    | some v => .next v
    | none => .refused (.frameByteUnwritten i)
  else .fault (.frameIndex i)

/-- The bytes at a list of indexes, in order. -/
def readFrameBytes (s : State) : List Nat → Host.Outcome (List Byte) Fault Refusal
  | [] => .next []
  | i :: is => andThen (readFrameByte s i) fun v => andThen (readFrameBytes s is) fun vs => .next (v :: vs)

/-- `FB[0 .. FRAME_LEN]`: the whole frame, offset 0 first (20_memory.md R34). -/
def readFrame (s : State) : Host.Outcome (List Byte) Fault Refusal :=
  readFrameBytes s (List.range (frameLen s.cfg.mode))

/-! Received bytes. -/

/-- RSP.DEC (43_decoder.md R130): all eight bits are compared. -/
def responseOf (b : Byte) : Response :=
  if b = ackByte then .ack else if b = nakByte then .nak else .other b

/-- FRM.CHK as a function of the build and the bytes (43_decoder.md R132, R133). -/
def checkFrame (m : Mode) (f : List Byte) : CheckResult :=
  let n := payloadLen m
  let payload := (f.drop 3).take n
  if f.length ≠ frameLen m then .invalid .badLength
  else if f.getD 0 0 ≠ magicByte m then .invalid .badMagic
  else if f.getD 1 0 + f.getD 2 0 ≠ 255 then .invalid .badComplement
  else if crc16 payload ≠ be16 (f.getD (3 + n) 0) (f.getD (3 + n + 1) 0) then .invalid .badCrc
  else .valid (f.getD 1 0) payload

end Sys2Proof.Machine
end

