-- ==== Sys2Proof/Machine/Ops.lean ====
section
/-! DEFINITION. The named operations on the frame buffer, the image source, the link and the registers, and
the entry into an error (20_memory.md R31 to R43; 60_exceptions.md R153; 70_reset_and_hazards.md R171). -/

namespace Sys2Proof.Machine

/-! The frame buffer's memory. -/

/-- The cells of `bytes` at increasing indexes from `a`. -/
def cells (a : Nat) : List Byte → Memory
  | [] => []
  | v :: vs => (a, v) :: cells (a + 1) vs

/-- `FB[a .. a + len] <- bytes`: the indexes written are replaced, the others stay. -/
def Memory.writeRange (m : Memory) (a : Nat) (bytes : List Byte) : Memory :=
  m.filter (fun c => c.1 < a) ++ cells a bytes ++ m.filter (fun c => a + bytes.length ≤ c.1)

/-- `FB[a] <- v`. -/
def Memory.write (m : Memory) (a : Nat) (v : Byte) : Memory := m.writeRange a [v]

/-- The canonical form: indexes strictly rising. (An unlisted index holds no value, so no cell can equal
what an unlisted index reads as.) -/
abbrev Memory.wf (m : Memory) : Prop := m.Pairwise (fun x y => x.1 < y.1)

/-- A write of `bytes` into the frame buffer from index `a`; a fault outside the frame (20_memory.md R35). -/
def writeFrameBytes (a : Nat) (bytes : List Byte) (s : State) : Host.Outcome State Fault Refusal :=
  if a + bytes.length ≤ frameLen s.cfg.mode then .next { s with fb := s.fb.writeRange a bytes }
  else .fault (.frameIndex (a + bytes.length - 1))

/-! The image source. -/

/-- The outcome of the next source read: the scripted one, past the script a free value (log 7). -/
def Source.takeTurn (src : Source) : IoResult × Source :=
  match src.turns with
  | r :: rest => (r, { src with turns := rest })
  | [] => (Config.freeSource src.draws, { src with draws := src.draws + 1 })

/-- `SrcRead(n)` (20_memory.md R36): exactly min(n, remaining) bytes and the cursor past them; or Err (none),
which leaves SRCPOS a free value within 0 to len(IMG) (log 9). -/
def Source.read (n : Nat) (src : Source) : Option (List Byte) × Source :=
  match src.takeTurn with
  | (.ok, src) =>
    let chunk := (src.img.drop src.pos).take n
    (some chunk, { src with pos := src.pos + chunk.length })
  | (.ioError, src) =>
    (none, { src with pos := Config.freePos src.draws % (src.img.length + 1), draws := src.draws + 1 })

/-! The link primitives (20_memory.md R37, R38). Each takes one turn of the peer: what arrives joins RXBUF
first, then the primitive succeeds or fails. Each appends its event to TXLOG. -/

/-- Bytes from the peer reach RXBUF, in the order received (20_memory.md R48). -/
def Link.arrive (bytes : List Byte) (l : Link) : Link := { l with rxbuf := l.rxbuf ++ bytes }

/-- An event joins TXLOG (10_state.md R21). -/
def Link.log (e : LinkEvent) (l : Link) : Link := { l with txLog := l.txLog ++ [e] }

/-- The peer's next turn, its arrivals already in RXBUF: the scripted one, past the script a free value
(20_memory.md R44; log 6). -/
def Link.takeTurn (l : Link) : IoResult × Link :=
  match l.turns with
  | t :: rest => (t.result, Link.arrive t.arrivals { l with turns := rest })
  | [] =>
    ((Config.freeTurn l.draws).result,
      Link.arrive (Config.freeTurn l.draws).arrivals { l with draws := l.draws + 1 })

/-- `LinkClearRx()`: RXBUF becomes empty. On IoError what RXBUF holds is a free value (log 8). -/
def Link.clearRx (l : Link) : IoResult × Link :=
  match l.takeTurn with
  | (.ok, l) => (.ok, Link.log (.clearRx .ok) { l with rxbuf := [] })
  | (.ioError, l) =>
    (.ioError, Link.log (.clearRx .ioError)
      { l with rxbuf := Config.freeRx l.draws l.rxbuf, draws := l.draws + 1 })

/-- `LinkWrite(bytes)`: the bytes join the transmit stream. On IoError some, all or none of them, as a free
value says, in order (93 U28; log 8). -/
def Link.write (bytes : List Byte) (l : Link) : IoResult × Link :=
  match l.takeTurn with
  | (.ok, l) => (.ok, Link.log (.write bytes .ok) { l with txStream := l.txStream ++ bytes })
  | (.ioError, l) =>
    (.ioError, Link.log (.write bytes .ioError)
      { l with txStream := l.txStream ++ bytes.take (Config.freeCount l.draws), draws := l.draws + 1 })

/-- `LinkFlush()`: every byte written so far has been handed to the transport. On IoError how many of the
waiting ones have is a free value (log 8). -/
def Link.flush (l : Link) : IoResult × Link :=
  match l.takeTurn with
  | (.ok, l) => (.ok, Link.log (.flush .ok) { l with txFlushed := l.txStream.length })
  | (.ioError, l) =>
    (.ioError, Link.log (.flush .ioError)
      { l with
        txFlushed := l.txFlushed + Config.freeCount l.draws % (l.txStream.length - l.txFlushed + 1)
        draws := l.draws + 1 })

/-- `LinkReadByte()`: the first byte of RXBUF, which is removed; a timeout where no byte is there or
arrives. On IoError what RXBUF holds is a free value (log 8). -/
def Link.readByte (l : Link) : ReadResult × Link :=
  match l.takeTurn with
  | (.ok, l) =>
    match l.rxbuf with
    | b :: rest => (.byte b, Link.log (.read (.byte b)) { l with rxbuf := rest })
    | [] => (.timeout, Link.log (.read .timeout) l)
  | (.ioError, l) =>
    (.ioError, Link.log (.read .ioError)
      { l with rxbuf := Config.freeRx l.draws l.rxbuf, draws := l.draws + 1 })

/-- One exchange of a unit (20_memory.md R41): clear, write, flush, read. The first primitive that fails
ends it, and no later one of it runs (60_exceptions.md R152). -/
def Link.exchange (unit : List Byte) (l : Link) : ReadResult × Link :=
  match l.clearRx with
  | (.ioError, l) => (.ioError, l)
  | (.ok, l) =>
    match l.write unit with
    | (.ioError, l) => (.ioError, l)
    | (.ok, l) =>
      match l.flush with
      | (.ioError, l) => (.ioError, l)
      | (.ok, l) => l.readByte

/-- The link when the peer's next exchange brings `bytes` as its answer: clear, write and flush succeed,
the bytes arrive while the read waits (30_encoding.md R65; log 12). -/
def Link.answering (bytes : List Byte) (l : Link) : Link :=
  { l with turns := ⟨[], .ok⟩ :: ⟨[], .ok⟩ :: ⟨[], .ok⟩ :: ⟨bytes, .ok⟩ :: l.turns }

/-! Results and errors. -/

/-- A result is handed to the host (30_encoding.md R62; log 16). -/
def giveReply (r : Reply) (s : State) : State := { s with reply := some r }

/-- `raise X(info)` (60_exceptions.md R153): ERR, for UnknownProtocolByte ERRINFO, PHASE; XFER.START returns
the failure to the host. Nothing else changes, nothing is saved, there is no return (R154). -/
def raiseError (x : ErrCode) (info : Byte) (s : State) : State :=
  { s with
    err := x
    errinfo := if x = .unknownProtocolByte then info else s.errinfo
    phase := .error
    reply := some (.status .error x) }

/-- The registers a failed source read leaves unspecified (41_frame_encoder.md R96, 93 U27): free values
(log 9). Whether ACC has been written since reset stays. -/
def spoilFrame (s : State) : State :=
  { s with
    fb := cells 0 ((List.range (frameLen s.cfg.mode)).map (Config.freeFrameByte s.draws))
    rlen := Config.freeRlen s.draws
    eof := Config.freeEof s.draws
    acc := Config.freeAcc s.draws
    draws := s.draws + 1 }

/-- Hardware reset (70_reset_and_hazards.md R171, 42_transfer_fsm.md R117): PHASE and ERR; every other
register unspecified, so a free value, with ACC and FB unwritten (log 10). It starts a different run (R191),
whose histories TXLOG and PROG are empty (R171). The link's other fields and the image source stay: the bytes
already sent stay sent. -/
def hardwareReset (s : State) : State :=
  { s with
    phase := .idle
    err := .none
    acc := Config.freeAcc s.draws
    accWritten := false
    blk := Config.freeBlk s.draws
    retry := Config.freeRetry s.draws
    rlen := Config.freeRlen s.draws
    eof := Config.freeEof s.draws
    fb := []
    errinfo := Config.freeErrInfo s.draws
    link := { s.link with txLog := [] }
    prog := []
    reply := none
    resetReq := false
    draws := s.draws + 1 }

/-- Bytes from the peer reach RXBUF while the engine reads nothing (10_state.md R22). -/
def arriveBytes (bytes : List Byte) (s : State) : State := { s with link := s.link.arrive bytes }

end Sys2Proof.Machine
end

