-- ==== Sys2Proof/Machine/Decoder.lean ====
section
/-! DEFINITION. The decoders' operations: RSP.DEC and FRM.CHK (43_decoder.md). -/

namespace Sys2Proof.Machine

/-- RSP.DEC b (43_decoder.md R130): pure; its result goes to the reply port (log 16). -/
def execRspDec (b : Byte) (s : State) : Host.Outcome State Fault Refusal :=
  .next (giveReply (.response (responseOf b)) s)

/-- FRM.CHK F (43_decoder.md R132, R144): pure; accepted while the engine does not run. -/
def execFrmChk (f : List Byte) (s : State) : Host.Outcome State Fault Refusal :=
  hostOperation s (.next (giveReply (.check (checkFrame s.cfg.mode f)) s))

end Sys2Proof.Machine
end

