-- ==== Sys2Proof/Machine/Generator.lean ====
section
/-! DEFINITION. The CRC generator's operations (40_crc16.md section 3). -/

namespace Sys2Proof.Machine

/-- CRC.CLR (40_crc16.md R73). -/
def execCrcClr (s : State) : Host.Outcome State Fault Refusal :=
  hostOperation s (.next { s with acc := 0, accWritten := true, reply := none })

/-- CRC.UPD b (40_crc16.md R74). -/
def execCrcUpd (b : Byte) (s : State) : Host.Outcome State Fault Refusal :=
  hostOperation s (andThen (readAcc s) fun a => .next { s with acc := crcByte a b, reply := none })

/-- CRC.RD (40_crc16.md R75): ACC goes to the host and stays. -/
def execCrcRd (s : State) : Host.Outcome State Fault Refusal :=
  hostOperation s (andThen (readAcc s) fun a => .next (giveReply (.crc a) s))

/-- CRC.BLK s (40_crc16.md R76): CRC.CLR, one CRC.UPD per byte, CRC.RD. -/
def execCrcBlk (bytes : List Byte) (s : State) : Host.Outcome State Fault Refusal :=
  hostOperation s
    (.next (giveReply (.crc (crcFrom 0 bytes)) { s with acc := crcFrom 0 bytes, accWritten := true }))

end Sys2Proof.Machine
end

