-- ==== Sys2Proof/Machine/Encoder.lean ====
section
/-! DEFINITION. The frame encoder, FRM.BUILD (41_frame_encoder.md). -/

namespace Sys2Proof.Machine

/-- FRM.BUILD's actions (41_frame_encoder.md R85, with R92 for what FB holds): one source read; on Err
SourceIoError (R96); else the frame of the chunk and BLK, RLEN, EOF, ACC, RETRY, and PHASE = SEND. -/
def buildFrame (s : State) : Host.Outcome State Fault Refusal :=
  match s.src.read (payloadLen s.cfg.mode) with
  | (none, src) => .next (raiseError .sourceIoError 0 (spoilFrame { s with src := src }))
  | (some chunk, src) =>
    andThen (writeFrameBytes 0 (frame s.cfg.mode chunk s.blk) s) fun s =>
      .next { s with
        src := src
        rlen := BitVec.ofNat 11 chunk.length
        eof := eofFlag s.cfg.mode chunk.length
        acc := crc16 (payloadOf s.cfg.mode chunk)
        accWritten := true
        retry := 0
        phase := .send }

/-- FRM.BUILD, selected by PHASE = BUILD (30_encoding.md R63). -/
def execFrmBuild (s : State) : Host.Outcome State Fault Refusal :=
  if s.phase = .build then buildFrame s else .refused (.notSelected s.phase)

end Sys2Proof.Machine
end

