-- ==== Sys2Proof/Machine/Transfer.lean ====
section
/-! DEFINITION. The transfer state machine (42_transfer_fsm.md): XFER.START, FRM.SEND, EOT.SEND, and the
pseudo-operations FRM.SENDRETRY and XFER.RUN. -/

namespace Sys2Proof.Machine

/-! The frame phase. -/

/-- The advance on an acknowledged frame (42_transfer_fsm.md R109), then the next phase by EOF (R110). -/
def advance (s : State) : State :=
  let s := { s with prog := s.prog ++ [s.blk], blk := s.blk + 1 }
  if s.eof then { s with retry := 0, phase := .eot } else { s with phase := .build }

/-- One retry (42_transfer_fsm.md R105, R113). -/
def countRetry (s : State) : State := { s with retry := s.retry + 1 }

/-- What the engine does in the frame phase with a decoded byte (42_transfer_fsm.md R104 to R107,
43_decoder.md R131): the byte is examined before the retry count (60_exceptions.md R152). -/
def frameResponse (r : Response) (s : State) : State :=
  match r with
  | .ack => advance s
  | .nak => if retryExhausted s then raiseError .transferAborted 0 s else countRetry s
  | .other b => raiseError .unknownProtocolByte b s

/-- What the engine does with the outcome of a frame's exchange (42_transfer_fsm.md R104 to R108). -/
def frameAnswer (r : ReadResult) (s : State) : State :=
  match r with
  | .ioError => raiseError .linkIoError 0 s
  | .timeout => raiseError .linkTimeout 0 s
  | .byte b => frameResponse (responseOf b) s

/-- FRM.SEND's actions (42_transfer_fsm.md R103): one exchange of the whole frame in FB. -/
def sendFrame (s : State) : Host.Outcome State Fault Refusal :=
  andThen (readFrame s) fun unit =>
    let (r, link) := s.link.exchange unit
    .next (frameAnswer r { s with link := link })

/-- FRM.SEND, selected by PHASE = SEND (30_encoding.md R63). -/
def execFrmSend (s : State) : Host.Outcome State Fault Refusal :=
  if s.phase = .send then sendFrame s else .refused (.notSelected s.phase)

/-! The EOT phase. -/

/-- The transfer is complete (42_transfer_fsm.md R112, R116): XFER.START returns success. -/
def finish (s : State) : State := { s with phase := .done, reply := some (.status .done s.err) }

/-- What the engine does in the EOT phase with a decoded byte: any but ACK is a retry (42_transfer_fsm.md
R112 to R114, 43_decoder.md R131). -/
def eotResponse (r : Response) (s : State) : State :=
  match r with
  | .ack => finish s
  | .nak | .other _ => if retryExhausted s then raiseError .transferAborted 0 s else countRetry s

/-- What the engine does with the outcome of the EOT's exchange (42_transfer_fsm.md R112 to R115). -/
def eotAnswer (r : ReadResult) (s : State) : State :=
  match r with
  | .ioError => raiseError .linkIoError 0 s
  | .timeout => raiseError .linkTimeout 0 s
  | .byte b => eotResponse (responseOf b) s

/-- EOT.SEND's actions (42_transfer_fsm.md R111): one exchange of the byte 0x04. -/
def sendEot (s : State) : Host.Outcome State Fault Refusal :=
  let (r, link) := s.link.exchange [eotByte]
  .next (eotAnswer r { s with link := link })

/-- EOT.SEND, selected by PHASE = EOT (30_encoding.md R63). -/
def execEotSend (s : State) : Host.Outcome State Fault Refusal :=
  if s.phase = .eot then sendEot s else .refused (.notSelected s.phase)

/-! The start, and the runs of micro-operations. -/

/-- XFER.START's writes (42_transfer_fsm.md R100). -/
def startTransfer (img : List Byte) (s : State) : State :=
  { s with
    src := { s.src with img := img, pos := 0 }
    prog := []
    blk := 0x01
    retry := 0
    eof := false
    err := .none
    phase := .build
    reply := none }

/-- XFER.START's condition: accepted only in IDLE (30_encoding.md R64, 60_exceptions.md R154). -/
def fromIdle (s : State) (k : Host.Outcome State Fault Refusal) : Host.Outcome State Fault Refusal :=
  hostOperation s (if s.phase = .idle then k else .refused .transferEnded)

/-- XFER.START img (42_transfer_fsm.md R100). The engine then runs by its own steps, and the result reaches
the host when it ends. -/
def execXferStart (img : List Byte) (s : State) : Host.Outcome State Fault Refusal :=
  fromIdle s (.next (startTransfer img s))

/-- The micro-operation PHASE selects (30_encoding.md R63); in IDLE, DONE and ERROR there is none. -/
def microOperation (s : State) : Host.Outcome State Fault Refusal :=
  match s.phase with
  | .build => buildFrame s
  | .send => sendFrame s
  | .eot => sendEot s
  | .idle | .done | .error => .next s

/-- At most `k` micro-operations, up to the first state in which `stop` holds. -/
def runUntil (stop : State → Bool) : Nat → State → Host.Outcome State Fault Refusal
  | 0, s => .next s
  | k + 1, s => if stop s then .next s else andThen (microOperation s) (runUntil stop k)

/-- How many micro-operations the transfer of an image can take: one build and MAX_SENDS sends per frame, and
MAX_SENDS sends of the EOT (42_transfer_fsm.md R118, R119, R129). -/
def transferBound (c : BuildConfig) (length : Nat) : Nat :=
  (length / payloadLen c.mode + 1) * (1 + maxSends c) + maxSends c

/-- XFER.RUN img (42_transfer_fsm.md R101, R128): XFER.START, then micro-operations until DONE or ERROR. -/
def execXferRun (img : List Byte) (s : State) : Host.Outcome State Fault Refusal :=
  andThen (execXferStart img s) fun t =>
    runUntil (fun u => !u.phase.running) (transferBound s.cfg img.length) t

/-- FRM.SENDRETRY (42_transfer_fsm.md R127): FRM.SEND until PHASE leaves SEND. RETRY has 4 bits, so 16 sends
always reach the ceiling; from RETRY = 0 MAX_SENDS of them do (R119). -/
def execFrmSendretry (s : State) : Host.Outcome State Fault Refusal :=
  if s.phase = .send then runUntil (fun u => u.phase != .send) 16 s else .refused (.notSelected s.phase)

end Sys2Proof.Machine
end

