-- ==== Sys2Proof/Machine/Symbols.lean ====
section
/-! DEFINITION. The wire units as operations (00_scope.md section 3.4: "a wire symbol the block emits or
decodes"; 30_encoding.md R52, R57 to R61). DESIGN CHOICE (log 12, log 13) for what a unit is in each phase. -/

namespace Sys2Proof.Machine

/-- The unit that is the engine's own in the current phase: in BUILD the frame FRM.BUILD makes of the next
chunk and BLK (41_frame_encoder.md R85, R92), in SEND the frame in FB (42_transfer_fsm.md R103), in EOT the
byte 0x04 (R111); none elsewhere. -/
def engineUnit (s : State) : Option (List Byte) :=
  match s.phase with
  | .build =>
    some (frame s.cfg.mode ((s.src.img.drop s.src.pos).take (payloadLen s.cfg.mode)) s.blk)
  | .send =>
    match readFrame s with
    | .next unit => some unit
    | .fault _ => none
    | .refused _ => none
  | .eot => some [eotByte]
  | .idle | .done | .error => none

/-- A unit on the link. The engine's own: the micro-operation that builds or emits it. Any other unit is the
peer's: in SEND and EOT the answer of the exchange (30_encoding.md R57, R58, 43_decoder.md R131); where the
engine waits for no answer it reaches RXBUF (10_state.md R22). -/
def linkUnit (unit : List Byte) (s : State) : Host.Outcome State Fault Refusal :=
  if engineUnit s = some unit then microOperation s
  else match s.phase with
    | .send | .eot => microOperation { s with link := s.link.answering unit }
    | .idle | .build | .done | .error => .next (arriveBytes unit s)

/-- A data unit: while the engine runs a unit on the link; otherwise it is presented to the frame decoder,
whose result goes to the reply port (30_encoding.md R61, 43_decoder.md R132; log 13). -/
def dataUnitOnLink (unit : List Byte) (s : State) : Host.Outcome State Fault Refusal :=
  if s.phase.running then linkUnit unit s
  else .next (giveReply (.check (checkFrame s.cfg.mode unit)) s)

/-- MAGIC_128 (30_encoding.md R50, R52, R61). -/
def execMagic128 (id cmpl : Byte) (payload : List Byte) (crcHi crcLo : Byte) (s : State) :
    Host.Outcome State Fault Refusal :=
  dataUnitOnLink (dataUnit magic128Byte id cmpl payload crcHi crcLo) s

/-- MAGIC_1K (30_encoding.md R50, R52, R61). -/
def execMagic1k (id cmpl : Byte) (payload : List Byte) (crcHi crcLo : Byte) (s : State) :
    Host.Outcome State Fault Refusal :=
  dataUnitOnLink (dataUnit magic1kByte id cmpl payload crcHi crcLo) s

/-- EOT (30_encoding.md R52, R57; 42_transfer_fsm.md R111): in the EOT phase the engine's own exchange. -/
def execEot (s : State) : Host.Outcome State Fault Refusal := linkUnit [eotByte] s

/-- ACK (43_decoder.md R130, R131). -/
def execAck (s : State) : Host.Outcome State Fault Refusal := linkUnit [ackByte] s

/-- NAK (43_decoder.md R130, R131). -/
def execNak (s : State) : Host.Outcome State Fault Refusal := linkUnit [nakByte] s

/-- CAN (30_encoding.md R59): no cancel handling. -/
def execCan (s : State) : Host.Outcome State Fault Refusal := linkUnit [canByte] s

/-- CRCREQ (30_encoding.md R60): no step waits for it. -/
def execCrcreq (s : State) : Host.Outcome State Fault Refusal := linkUnit [crcreqByte] s

end Sys2Proof.Machine
end

