-- ==== Sys2Proof/Machine/Dispatch.lean ====
section
/-! DEFINITION. Which meaning each operation has: one arm per row of spec/opcode_table.json. -/

namespace Sys2Proof.Machine

/-- One operation. -/
def exec (i : Instr) (s : State) : Host.Outcome State Fault Refusal :=
  match i with
  | .magic128 id cmpl payload crcHi crcLo => Sys2Proof.Machine.execMagic128 id cmpl payload crcHi crcLo s
  | .magic1k id cmpl payload crcHi crcLo => Sys2Proof.Machine.execMagic1k id cmpl payload crcHi crcLo s
  | .eot => Sys2Proof.Machine.execEot s
  | .ack => Sys2Proof.Machine.execAck s
  | .nak => Sys2Proof.Machine.execNak s
  | .can => Sys2Proof.Machine.execCan s
  | .crcreq => Sys2Proof.Machine.execCrcreq s
  | .crcClr => Sys2Proof.Machine.execCrcClr s
  | .crcUpd b => Sys2Proof.Machine.execCrcUpd b s
  | .crcRd => Sys2Proof.Machine.execCrcRd s
  | .xferStart img => Sys2Proof.Machine.execXferStart img s
  | .frmChk f => Sys2Proof.Machine.execFrmChk f s
  | .frmBuild => Sys2Proof.Machine.execFrmBuild s
  | .frmSend => Sys2Proof.Machine.execFrmSend s
  | .eotSend => Sys2Proof.Machine.execEotSend s
  | .crcBlk bytes => Sys2Proof.Machine.execCrcBlk bytes s
  | .xferRun img => Sys2Proof.Machine.execXferRun img s
  | .frmSendretry => Sys2Proof.Machine.execFrmSendretry s
  | .rspDec b => Sys2Proof.Machine.execRspDec b s

end Sys2Proof.Machine
end

