-- ==== Sys2Proof/Decode.lean ====
section
/-! DEFINITION. The decoder of the three code spaces, total and rejecting by name, and the encoder
(30_encoding.md R50 to R52, R56, R62 to R64, R67). -/

namespace Sys2Proof

open Sys2Proof.Machine

/-- The fields of a data unit with an `n`-byte payload, from the bytes after its magic byte, and what
follows the unit (R50); none where the bytes run out. -/
def splitData (n : Nat) : List Byte → Option (Byte × Byte × List Byte × Byte × Byte × List Byte)
  | id :: cmpl :: body =>
    match body.drop n with
    | crcHi :: crcLo :: rest => some (id, cmpl, body.take n, crcHi, crcLo, rest)
    | _ => none
  | _ => none

/-- The next wire unit: recognised by its first byte alone (R52), its length following from it (R56). -/
def decodeWire : List Byte → Decoded
  | [] => .reject .emptyUnit
  | b :: bs =>
    if b = magic128Byte then
      match splitData 128 bs with
      | some (id, cmpl, payload, crcHi, crcLo, rest) => .ok (.magic128 id cmpl payload crcHi crcLo) rest
      | none => .reject (.truncatedFrame (bs.length + 1))
    else if b = magic1kByte then
      match splitData 1024 bs with
      | some (id, cmpl, payload, crcHi, crcLo, rest) => .ok (.magic1k id cmpl payload crcHi crcLo) rest
      | none => .reject (.truncatedFrame (bs.length + 1))
    else if b = eotByte then .ok .eot bs
    else if b = ackByte then .ok .ack bs
    else if b = nakByte then .ok .nak bs
    else if b = canByte then .ok .can bs
    else if b = crcreqByte then .ok .crcreq bs
    else .reject (.unnamedSymbol b)

/-- A host command (R62): the operand lines an operation has no operand for are not looked at. -/
def decodeCommand (code : BitVec 4) (operand : Byte) (seq : List Byte) : Decoded :=
  if code = 0x1 then .ok .crcClr []
  else if code = 0x2 then .ok (.crcUpd operand) []
  else if code = 0x3 then .ok .crcRd []
  else if code = 0x4 then .ok (.xferStart seq) []
  else if code = 0x5 then .ok (.frmChk seq) []
  else .reject (.unassignedCommand code)

/-- The micro-operation a phase code selects (R63). -/
def decodePhase (code : BitVec 3) : Decoded :=
  if code = 1 then .ok .frmBuild []
  else if code = 2 then .ok .frmSend []
  else if code = 3 then .ok .eotSend []
  else .reject (.noMicroOperation code)

/-- The decoder. -/
def decode : Code → Decoded
  | .wire bytes => decodeWire bytes
  | .cmd code operand seq => decodeCommand code operand seq
  | .phase code => decodePhase code

/-- The encoder: the coded form of an operation, none for the four rows that have no code (R66, R67). -/
def encode : Instr → Option Code
  | .magic128 id cmpl payload crcHi crcLo => some (.wire (dataUnit 0x01 id cmpl payload crcHi crcLo))
  | .magic1k id cmpl payload crcHi crcLo => some (.wire (dataUnit 0x02 id cmpl payload crcHi crcLo))
  | .eot => some (.wire [0x04])
  | .ack => some (.wire [0x06])
  | .nak => some (.wire [0x15])
  | .can => some (.wire [0x18])
  | .crcreq => some (.wire [0x43])
  | .crcClr => some (.cmd 0x1 0 [])
  | .crcUpd b => some (.cmd 0x2 b [])
  | .crcRd => some (.cmd 0x3 0 [])
  | .xferStart img => some (.cmd 0x4 0 img)
  | .frmChk f => some (.cmd 0x5 0 f)
  | .frmBuild => some (.phase 1)
  | .frmSend => some (.phase 2)
  | .eotSend => some (.phase 3)
  | .crcBlk _ => none
  | .xferRun _ => none
  | .frmSendretry => none
  | .rspDec _ => none

/-- The host commands a pseudo-operation stands for (R66): CRC.BLK is CRC.CLR, one CRC.UPD per byte,
CRC.RD; XFER.RUN is XFER.START, after which the engine runs by itself. The other operations: their own
code, if they have one. -/
def expand : Instr → List Code
  | .crcBlk s => .cmd 0x1 0 [] :: (s.map (fun b => .cmd 0x2 b []) ++ [.cmd 0x3 0 []])
  | .xferRun img => [.cmd 0x4 0 img]
  | i => (encode i).toList

/-! The opcode table's numbering of an operation's bits (the host's interface; log 14). -/

/-- The `k` low bytes of `w`, least significant first: of a table word wider than 8 bits the low byte is the
unit's first byte. DESIGN CHOICE (log 14), safe: R67 matches 8 bits and gives wider words no byte order (the bit
string of R50 puts byte 0 on top); it is the numbering of the host's interface. -/
def lowBytes : Nat → Nat → List Byte
  | 0, _ => []
  | k + 1, w => BitVec.ofNat 8 w :: lowBytes k (w / 256)

/-- The length of the wire unit a first byte opens (R56); none for a byte that names no unit (R52). -/
def unitLength (b : Byte) : Option Nat :=
  if b = magic128Byte then some 133
  else if b = magic1kByte then some 1029
  else if b = eotByte ∨ b = ackByte ∨ b = nakByte ∨ b = canByte ∨ b = crcreqByte then some 1
  else none

/-- The coded form that a table word stands for. The three code spaces overlap on small numbers, so the
width decides: up to 3 bits the phase code, 4 bits the command code, from 8 bits on the wire symbol that the
first byte names, and the command in its low four bits where it names none. Of such a command word the second
byte is the operand byte, and the bytes from the second on are the operand sequence; a word of 5 to 7 bits is
read as one of 8 whose upper bits are 0. DESIGN CHOICE (log 14), safe: R67 says none of it, and no operation's
effect depends on it. -/
def tableCode (nbits w : Nat) : Code :=
  if nbits ≤ 3 then .phase (BitVec.ofNat 3 w)
  else if nbits ≤ 4 then .cmd (BitVec.ofNat 4 w) 0 []
  else
    let bytes := lowBytes ((nbits + 7) / 8) w
    let first := bytes.headD 0
    match unitLength first with
    | some n => .wire (bytes ++ List.replicate (n - bytes.length) 0)
    | none => .cmd (first.truncate 4) (bytes.getD 1 0) (bytes.drop 1)

/-- The operation a decoder's answer gives. -/
def Decoded.instr? : Decoded → Option Instr
  | .ok i _ => some i
  | .reject _ => none

/-- The operation the decoder reads from a table word (the host's interface). -/
def decodeTableWord (nbits w : Nat) : Option Instr := (decode (tableCode nbits w)).instr?

end Sys2Proof
end

