-- ==== Sys2Proof/Machine/Fetch.lean ====
section
/-! DEFINITION. What the machine does next: the block fetches no instructions (20_memory.md R45); while the
engine runs PHASE selects the micro-operation (30_encoding.md R63), otherwise the next pending request does
(R62; 70_reset_and_hazards.md R170; log 11). -/

namespace Sys2Proof.Machine

/-- What comes next. -/
inductive Fetched where
  /-- The requested hardware reset (70_reset_and_hazards.md R171). -/
  | reset
  /-- Nothing to do, and the state that stays: no request pending (70_reset_and_hazards.md R170). -/
  | wait (s : State)
  /-- An operation, and the state it runs in: the request taken off the list. -/
  | run (i : Instr) (s : State)
  /-- Bytes on the wire that open no unit: they reach RXBUF (10_state.md R22; all of the request, log 11). -/
  | arrival (bytes : List Byte) (s : State)
  /-- A command without an operation (30_encoding.md R64). -/
  | reject (r : Refusal)
  deriving DecidableEq, Repr

/-- The pending requests after the first one, of which wire bytes `rest` are left over. -/
def leftOver (rest : List Byte) (inputs : List Code) : List Code :=
  if rest = [] then inputs else .wire rest :: inputs

/-- The operation a request stands for. A phase code is no request: the engine alone selects
micro-operations (30_encoding.md R63), so it is dropped. Where the first byte names no unit, or is a magic byte
with too few bytes after it, ALL the wire bytes of the request reach RXBUF, a whole frame among the later ones
too, and none of them is presented to the frame decoder. DESIGN CHOICE (log 11), safe: R61 gives no rule for what a
receiver does with such a byte, nor where the next unit starts. -/
def fetchRequest (c : Code) (inputs : List Code) (s : State) : Fetched :=
  match c with
  | .wire bytes =>
    match decode (.wire bytes) with
    | .ok i rest => .run i { s with inputs := leftOver rest inputs }
    | .reject _ => .arrival bytes { s with inputs := inputs }
  | .cmd code operand seq =>
    match decode (.cmd code operand seq) with
    | .ok i _ => .run i { s with inputs := inputs }
    | .reject _ => .reject (.unassignedCommand code)
  | .phase _ => .wait { s with inputs := inputs }

/-- What comes next in `s`. -/
def fetch (s : State) : Fetched :=
  if s.resetReq then .reset
  else if s.phase.running then
    match decode (.phase s.phase.code) with
    | .ok i _ => .run i s
    | .reject _ => .wait s
  else
    match s.inputs with
    | [] => .wait s
    | c :: rest => fetchRequest c rest s

/-- `s` with a coded form where the next step takes it: a phase code is PHASE itself; a command or a unit is
the first pending request, and the engine is not running (log 15). -/
def placeCode (c : Code) (s : State) : State :=
  match c with
  | .phase code =>
    { s with phase := (phaseOfCode code).getD s.phase, resetReq := false }
  | .wire bytes =>
    { s with inputs := .wire bytes :: s.inputs, resetReq := false,
             phase := if s.phase.running then .idle else s.phase }
  | .cmd code operand seq =>
    { s with inputs := .cmd code operand seq :: s.inputs, resetReq := false,
             phase := if s.phase.running then .idle else s.phase }

end Sys2Proof.Machine
end

