-- ==== Sys2Proof/Machine/Step.lean ====
section
/-! DEFINITION. One step of the machine: what `fetch` finds, done (20_memory.md R40). -/

namespace Sys2Proof.Machine

/-- One step. -/
def step (s : State) : Host.Outcome State Fault Refusal :=
  match fetch s with
  | .reset => .next (hardwareReset s)
  | .wait t => .next t
  | .run i t => exec i t
  | .arrival bytes t => .next (arriveBytes bytes t)
  | .reject r => .refused r

/-- `s` with the operation that a table word gives where the next step takes it (the host's interface; log 14,
log 15). -/
def State.withFetchWord (s : State) (nbits w : Nat) : State :=
  placeCode (Sys2Proof.tableCode nbits w) s

end Sys2Proof.Machine
end

