-- ==== Sys2Proof/Safety.lean ====
section
/-! DEFINITION. What holds in a sound state, in the terms the statements use: invariants of the block, and
the ends of a run (70_reset_and_hazards.md R191). -/

namespace Sys2Proof.Machine

/-- The frame buffer is in its canonical form and lists no index outside the frame (20_memory.md R31, R35). -/
def FrameBufferOk (s : State) : Prop :=
  Memory.wf s.fb ∧ ∀ c ∈ s.fb, c.1 < frameLen s.cfg.mode

/-- 0 <= SRCPOS <= len(IMG) (10_state.md R20). -/
def SourceOk (s : State) : Prop := s.src.pos ≤ s.src.img.length

/-- No more has been handed over than was written (20_memory.md R37). -/
def FlushOk (s : State) : Prop := s.link.txFlushed ≤ s.link.txStream.length

/-- RETRY is within 0 to MAX_RETRY while an exchange series runs (10_state.md R12). -/
def RetryOk (s : State) : Prop := s.phase = .send ∨ s.phase = .eot → s.retry.toNat ≤ s.cfg.maxRetry.toNat

/-- ERR is NONE exactly outside PHASE = ERROR (10_state.md R17, 42_transfer_fsm.md R116). -/
def ErrOk (s : State) : Prop := s.phase = .error ↔ s.err ≠ .none

/-- The image's chunk number `k`, counted from 0: what the source read of frame `k + 1` returns
(20_memory.md R36, R42). -/
def chunkOf (m : Mode) (img : List Byte) (k : Nat) : List Byte :=
  (img.drop (payloadLen m * k)).take (payloadLen m)

/-- The transfer is where its acknowledged frames say it is: with `k` frames acknowledged BLK is 1 + k mod
256; in BUILD the source has given out k full chunks; in SEND the frame buffer holds the frame of chunk k and
BLK, built from the source and unread since (10_state.md R11, R42, R181; 41_frame_encoder.md R92, R95). -/
def TransferOk (s : State) : Prop :=
  (s.phase = .build ∨ s.phase = .send ∨ s.phase = .eot ∨ s.phase = .done →
    s.blk = BitVec.ofNat 8 (s.prog.length + 1)) ∧
  (s.phase = .build → s.src.pos = payloadLen s.cfg.mode * s.prog.length) ∧
  (s.phase = .send →
    s.fb = cells 0 (frame s.cfg.mode (chunkOf s.cfg.mode s.src.img s.prog.length) s.blk) ∧
    s.src.pos = payloadLen s.cfg.mode * s.prog.length +
      (chunkOf s.cfg.mode s.src.img s.prog.length).length ∧
    s.rlen.toNat = (chunkOf s.cfg.mode s.src.img s.prog.length).length ∧
    s.eof = eofFlag s.cfg.mode (chunkOf s.cfg.mode s.src.img s.prog.length).length)

/-- Everything above at once. -/
def Sound (s : State) : Prop :=
  FrameBufferOk s ∧ SourceOk s ∧ FlushOk s ∧ RetryOk s ∧ ErrOk s ∧ TransferOk s

/-! Terms of the statements. -/

/-- `k` steps, stopping at the first refusal or fault. -/
def steps : Nat → State → Host.Outcome State Fault Refusal
  | 0, s => .next s
  | k + 1, s => andThen (step s) (steps k)

/-- A run of the engine is over (70_reset_and_hazards.md R191). -/
def Ended (s : State) : Prop := s.phase = .done ∨ s.phase = .error

/-- TXBYTES: the arguments of all Write events in order (10_state.md R21). -/
def txBytes : List LinkEvent → List Byte
  | [] => []
  | .write bytes _ :: es => bytes ++ txBytes es
  | .clearRx _ :: es => txBytes es
  | .flush _ :: es => txBytes es
  | .read _ :: es => txBytes es

/-- The units the block puts on the link (20_memory.md R37): a whole frame buffer or the single byte EOT. -/
def UnitsOnly (s : State) : Prop :=
  ∀ e ∈ s.link.txLog, ∀ bytes r, e = .write bytes r → bytes = [eotByte] ∨ bytes.length = frameLen s.cfg.mode

/-- `l'` adds to `l`: events at the end of TXLOG, and at the end of the transmit stream the bytes their writes
carry, in that order, of which a failed write may lack some (10_state.md R21, 20_memory.md R37, 93 U28). -/
def Link.Extends (l l' : Link) : Prop :=
  ∃ events sent, l'.txLog = l.txLog ++ events ∧ l'.txStream = l.txStream ++ sent ∧
    sent.Sublist (txBytes events)

/-- The events of an exchange in which nothing fails and the read gives `r` (20_memory.md R41). -/
def exchangeEvents (unit : List Byte) (r : ReadResult) : List LinkEvent :=
  [.clearRx .ok, .write unit .ok, .flush .ok, .read r]

/-- The events of an exchange in which the clear, the write, the flush or the read fails: none follow
(20_memory.md R41, 60_exceptions.md R152). -/
def failedExchangeEvents (unit : List Byte) : List (List LinkEvent) :=
  [[.clearRx .ioError], [.clearRx .ok, .write unit .ioError],
    [.clearRx .ok, .write unit .ok, .flush .ioError],
    [.clearRx .ok, .write unit .ok, .flush .ok, .read .ioError]]

/-- The link after an exchange of `unit` in which nothing fails and `b`, then `more`, arrive while the read
waits: `b` is the answer, `more` stays in RXBUF (20_memory.md R37, R38, R41). -/
def Link.answered (unit : List Byte) (b : Byte) (more : List Byte) (l : Link) : Link :=
  { l with
    rxbuf := more
    txLog := l.txLog ++ exchangeEvents unit (.byte b)
    txStream := l.txStream ++ unit
    txFlushed := (l.txStream ++ unit).length }

/-- The peer's turns in an exchange in which nothing fails and the byte `b` is the answer
(30_encoding.md R65). -/
def answerTurns (b : Byte) : List LinkTurn := [⟨[], .ok⟩, ⟨[], .ok⟩, ⟨[], .ok⟩, ⟨[b], .ok⟩]

/-- The turns of one exchange after another, one answer each. -/
def answersTurns (answers : List Byte) : List LinkTurn := answers.flatMap answerTurns

/-- The units written by a log, in order (10_state.md R21). -/
def unitsWritten : List LinkEvent → List (List Byte)
  | [] => []
  | .write bytes _ :: es => bytes :: unitsWritten es
  | .clearRx _ :: es => unitsWritten es
  | .flush _ :: es => unitsWritten es
  | .read _ :: es => unitsWritten es

/-- `s` ended by an error (60_exceptions.md R153). -/
def failed (x : ErrCode) (s : State) : State :=
  { s with err := x, phase := .error, reply := some (.status .error x) }

/-- The operations that may store into the frame buffer in this state: FRM.BUILD, XFER.RUN, and a data unit
in BUILD (10_state.md R28; log 12). -/
def mayStore (i : Instr) (s : State) : Bool :=
  match i with
  | .frmBuild => true
  | .xferRun _ => true
  | .magic128 _ _ _ _ _ => s.phase == .build
  | .magic1k _ _ _ _ _ => s.phase == .build
  | .eot => false
  | .ack => false
  | .nak => false
  | .can => false
  | .crcreq => false
  | .crcClr => false
  | .crcUpd _ => false
  | .crcRd => false
  | .xferStart _ => false
  | .frmChk _ => false
  | .frmSend => false
  | .eotSend => false
  | .crcBlk _ => false
  | .frmSendretry => false
  | .rspDec _ => false

/-- A byte of a frame with one bit flipped, the others as they are (43_decoder.md R137). -/
def flipBit (f : List Byte) (i k : Nat) : List Byte := f.modify i (fun b => b ^^^ (1#8 <<< k))

/-- The bit-serial form of one input byte (40_crc16.md R78). -/
def crcByteSerial (a : Half) (b : Byte) : Half :=
  [7, 6, 5, 4, 3, 2, 1, 0].foldl
    (fun a k => if a.getLsbD 15 != b.getLsbD k then (a <<< 1) ^^^ 0x1021 else a <<< 1) a

/-- One round on an accumulator of 32 bits, the test still on bit 15 (40_crc16.md R77). -/
def crcRoundWide (a : BitVec 32) : BitVec 32 :=
  if a.getLsbD 15 then (a <<< 1) ^^^ 0x1021 else a <<< 1

/-- `k` wide rounds. -/
def crcRoundsWide : Nat → BitVec 32 → BitVec 32
  | 0, a => a
  | k + 1, a => crcRoundsWide k (crcRoundWide a)

/-- A whole buffer on an accumulator of 32 bits that is never truncated (40_crc16.md R77). -/
def crc16Wide (s : List Byte) : BitVec 32 :=
  s.foldl (fun (a : BitVec 32) (b : Byte) => crcRoundsWide 8 (a ^^^ (b.zeroExtend 32 <<< 8))) 0

end Sys2Proof.Machine
end

