-- ==== Sys2Proof/WellFormed.lean ====
section
/-! DEFINITION. When an operation's operands fit its format: a data frame's payload has the length its
magic byte gives it (30_encoding.md R50, R56). Whether the complement and the CRC of a frame are right is
no question of form but the result of FRM.CHK (R61, 43_decoder.md R132). -/

namespace Sys2Proof

/-- The operand check, one line per operation. -/
def Instr.wellFormed : Instr → Bool
  | .magic128 _ _ payload _ _ => payload.length == 128
  | .magic1k _ _ payload _ _ => payload.length == 1024
  | .eot => true
  | .ack => true
  | .nak => true
  | .can => true
  | .crcreq => true
  | .crcClr => true
  | .crcUpd _ => true
  | .crcRd => true
  | .xferStart _ => true
  | .frmChk _ => true
  | .frmBuild => true
  | .frmSend => true
  | .eotSend => true
  | .crcBlk _ => true
  | .xferRun _ => true
  | .frmSendretry => true
  | .rspDec _ => true

/-- An operation whose operands fit its format. -/
abbrev WellFormed (i : Instr) : Prop := i.wellFormed = true

end Sys2Proof
end

