-- ==== Sys2Proof/Certificates/Slice0/Obligations.lean ====
section
/-! DEFINITION. The statements about the model, for the provers. "log n" is notes/assumptions/n.md: what
rests on an entry of it is the model's choice, not the spec's. -/

open Sys2Proof Sys2Proof.Machine

/-! ## Reset and the fetch -/

/-- After reset the block is idle, without error, with an empty history, ACC unreadable and no byte in FB
(70_reset_and_hazards.md R171, R173). The parameters are those of R1 and R6. -/
def Obligations.ResetLeavesIdleBlock : Prop :=
  State.reset.phase = .idle ∧ State.reset.err = .none ∧ State.reset.link.txLog = [] ∧
  State.reset.prog = [] ∧ readAcc State.reset = .refused .accUnwritten ∧
  (∀ i, Memory.read State.reset.fb i = none) ∧
  frameLen State.reset.cfg.mode = 1029 ∧ maxSends State.reset.cfg = 11

/-- Nothing happens while the engine does not run and no request is pending (R170, R63; the stutter is the
model's choice, log 11). -/
def Obligations.IdleBlockWaits : Prop :=
  ∀ s : State, s.phase.running = false → s.inputs = [] → s.resetReq = false → step s = .next s

/-- A hardware reset, in whatever phase: IDLE, no error, ACC and FB unwritten; the histories TXLOG and PROG start
empty; the rest of the link, the bytes already sent among it, the image source and the parameters stay (R117,
R171, R191). That the pending requests stay, and the request bit, are the model's choice (log 10). -/
def Obligations.HardwareResetFromAnyPhase : Prop :=
  ∀ s : State, s.resetReq = true → ∃ t, step s = .next t ∧ t.phase = .idle ∧ t.err = .none ∧
    t.accWritten = false ∧ (∀ i, Memory.read t.fb i = none) ∧ t.link = { s.link with txLog := [] } ∧ t.src = s.src ∧
    t.cfg = s.cfg ∧ t.prog = [] ∧ t.inputs = s.inputs ∧ t.resetReq = false

/-- A step runs the decoded operation: while the engine runs the one PHASE selects, otherwise the one the next
pending request stands for, taken off the list with the bytes after its unit left there (R62, R63, R40; the
list of requests is the model's, log 11). -/
def Obligations.StepRunsDecodedOperation : Prop :=
  (∀ s i rest, s.resetReq = false → s.phase.running = true → decode (.phase s.phase.code) = .ok i rest →
    step s = exec i s) ∧
  (∀ s i code operand seq inputs rest, s.resetReq = false → s.phase.running = false →
    s.inputs = .cmd code operand seq :: inputs → decode (.cmd code operand seq) = .ok i rest →
    step s = exec i { s with inputs := inputs }) ∧
  (∀ s i bytes inputs, s.resetReq = false → s.phase.running = false →
    s.inputs = .wire bytes :: inputs → decode (.wire bytes) = .ok i [] →
    step s = exec i { s with inputs := inputs }) ∧
  (∀ s i bytes inputs b rest, s.resetReq = false → s.phase.running = false →
    s.inputs = .wire bytes :: inputs → decode (.wire bytes) = .ok i (b :: rest) →
    step s = exec i { s with inputs := .wire (b :: rest) :: inputs })

/-- While the engine runs, PHASE selects exactly these micro-operations (R63). -/
def Obligations.PhaseSelectsMicroOperation : Prop :=
  ∀ s : State, s.resetReq = false →
    (s.phase = .build → step s = exec .frmBuild s) ∧ (s.phase = .send → step s = exec .frmSend s) ∧
    (s.phase = .eot → step s = exec .eotSend s)

/-- A CMD value with no operation is refused, and the others are not rejected (R62, R64). -/
def Obligations.UnassignedCommandsRefused : Prop :=
  ∀ (s : State) (code : BitVec 4) (operand : Byte) (seq : List Byte) (inputs : List Code),
    s.resetReq = false → s.phase.running = false → s.inputs = .cmd code operand seq :: inputs →
    (code = 0 ∨ 6 ≤ code.toNat → step s = .refused (.unassignedCommand code)) ∧
    (1 ≤ code.toNat ∧ code.toNat ≤ 5 → ∃ i, step s = exec i { s with inputs := inputs })

/-! ## Encodings -/

/-- Decoding an encoded well-formed operation gives it back, every operand at every value, whatever bytes
follow a wire unit (R50, R51, R62, R63). -/
def Obligations.DecodeOfEncode : Prop :=
  ∀ i : Instr, WellFormed i →
    (∀ unit rest, encode i = some (.wire unit) → decode (.wire (unit ++ rest)) = .ok i rest) ∧
    (∀ code operand seq, encode i = some (.cmd code operand seq) →
      decode (.cmd code operand seq) = .ok i []) ∧
    (∀ code, encode i = some (.phase code) → decode (.phase code) = .ok i [])

/-- What the decoder reads from wire bytes is well-formed, and its encoding is the bytes it took
(R50, R51, R56). -/
def Obligations.EncodeOfDecode : Prop :=
  ∀ bytes i rest, decode (.wire bytes) = .ok i rest →
    WellFormed i ∧ ∃ unit, encode i = some (.wire unit) ∧ bytes = unit ++ rest

/-- The first bytes that name a unit are the seven of R52, and a control symbol is one byte long (R51, R56). -/
def Obligations.SymbolTableComplete : Prop :=
  (∀ (b : Byte) (bs : List Byte), decode (.wire (b :: bs)) = .reject (.unnamedSymbol b) ↔
    b ≠ 0x01 ∧ b ≠ 0x02 ∧ b ≠ 0x04 ∧ b ≠ 0x06 ∧ b ≠ 0x15 ∧ b ≠ 0x18 ∧ b ≠ 0x43) ∧
  (∀ bs : List Byte, decode (.wire (0x04 :: bs)) = .ok .eot bs ∧ decode (.wire (0x06 :: bs)) = .ok .ack bs ∧
    decode (.wire (0x15 :: bs)) = .ok .nak bs ∧ decode (.wire (0x18 :: bs)) = .ok .can bs ∧
    decode (.wire (0x43 :: bs)) = .ok .crcreq bs) ∧
  (∀ bs : List Byte, (132 ≤ bs.length ↔ ∃ i rest, decode (.wire (0x01 :: bs)) = .ok i rest) ∧
    (1028 ≤ bs.length ↔ ∃ i rest, decode (.wire (0x02 :: bs)) = .ok i rest))

/-- A few words written out from the spec's encodings decode to what they stand for (R52, R62, R63). -/
def Obligations.SpecWordsDecode : Prop :=
  decode (.wire [0x06]) = .ok .ack [] ∧ decode (.wire [0x15]) = .ok .nak [] ∧
  decode (.wire (0x01 :: 0x01 :: 0xFE :: (List.replicate 128 0x00 ++ [0x12, 0x34]))) =
    .ok (.magic128 0x01 0xFE (List.replicate 128 0x00) 0x12 0x34) [] ∧
  decode (.cmd 0x2 0x31 []) = .ok (.crcUpd 0x31) [] ∧
  decode (.cmd 0x4 0x00 [0x41]) = .ok (.xferStart [0x41]) [] ∧
  decode (.phase 0x2) = .ok .frmSend []

/-- The complement field: 255 - ID, with the id it adds up to 255 without a wrap, and it is the bitwise
complement; the complement check in its three forms (R53, R135). -/
def Obligations.ComplementAddsTo255 : Prop :=
  (∀ id : Byte, (complement id).toNat = 255 - id.toNat ∧ id.toNat + (complement id).toNat = 255 ∧
    complement id = id ^^^ 0xFF) ∧
  complement 0x00 = 0xFF ∧ complement 0x01 = 0xFE ∧ complement 0x80 = 0x7F ∧ complement 0xFF = 0x00 ∧
  (∀ id cmpl : Byte, ((id.toNat + cmpl.toNat) % 256 = 255 ↔ cmpl.toNat = 255 - id.toNat) ∧
    (cmpl.toNat = 255 - id.toNat ↔ id ^^^ cmpl = 0xFF))

/-! ## The CRC generator -/

/-- One round as arithmetic on 0 to 65535, with the spec's corner values (R70). -/
def Obligations.CrcRoundArithmetic : Prop :=
  (∀ a : Half, (crcRound a).toNat =
    if 32768 ≤ a.toNat then (2 * a.toNat - 65536) ^^^ 0x1021 else 2 * a.toNat) ∧
  crcRound 0x0000 = 0x0000 ∧ crcRound 0x0001 = 0x0002 ∧ crcRound 0x4000 = 0x8000 ∧
  crcRound 0x7FFF = 0xFFFE ∧ crcRound 0x8000 = 0x1021 ∧ crcRound 0xFFFF = 0xEFDF

/-- The bit-serial form gives the same as the byte form (R78). -/
def Obligations.CrcSerialFormAgrees : Prop := ∀ (a : Half) (b : Byte), crcByte a b = crcByteSerial a b

/-- The table form gives the same as the byte form (R79). -/
def Obligations.CrcTableFormAgrees : Prop :=
  ∀ (a : Half) (b : Byte), crcByte a b = (a <<< 8) ^^^ crcByte 0x0000 (hi8 a ^^^ b)

/-- A wider accumulator truncated at the end gives the same (R77). -/
def Obligations.CrcWideAccumulatorAgrees : Prop :=
  ∀ s : List Byte, (crc16Wide s).truncate 16 = crc16 s

/-- The laws (a) to (d): zero prefix, linearity, residue, composition, and that CRC.RD disturbs nothing; law (e)
says no more than (a) (R80). -/
def Obligations.CrcLaws : Prop :=
  (∀ k s, crc16 (List.replicate k 0x00 ++ s) = crc16 s) ∧
  (∀ s t : List Byte, s.length = t.length →
    crc16 (List.zipWith (fun x y => x ^^^ y) s t) = crc16 s ^^^ crc16 t) ∧
  (∀ s, crc16 (s ++ [hi8 (crc16 s), lo8 (crc16 s)]) = 0x0000) ∧
  (∀ s t, crc16 (s ++ t) = crcFrom (crc16 s) t) ∧
  (∀ s t : State, exec .crcRd s = .next t → t.acc = s.acc)

/-- CRC.CLR, CMD 0x1: ACC is 0x0000, and nothing else of the block changes; refused while the engine runs
(R73; the reply port is the model's, log 16). -/
def Obligations.CrcClearClears : Prop :=
  (∀ operand seq, decode (.cmd 0x1 operand seq) = .ok .crcClr []) ∧
  ∀ s : State,
    (s.phase.running = false →
      exec .crcClr s = .next { s with acc := 0x0000, accWritten := true, reply := none }) ∧
    (s.phase.running = true → exec .crcClr s = .refused .engineRunning)

/-- CRC.UPD b, CMD 0x2: ACC takes in b; refused when ACC has not been written since reset, and while the engine
runs; the spec's corner cases (R74, R64, R40; the reply port is the model's, log 16). -/
def Obligations.CrcUpdateTakesByte : Prop :=
  (∀ b seq, decode (.cmd 0x2 b seq) = .ok (.crcUpd b) []) ∧
  crcByte 0x0000 0x00 = 0x0000 ∧ crcByte 0x1234 0x00 = 0x0673 ∧ crcByte 0x1200 0x12 = 0x0000 ∧
  crcByte 0x1234 0x12 = 0x3400 ∧ crcByte 0x2672 0x32 = 0x20B5 ∧
  ∀ (b : Byte) (s : State),
    (s.phase.running = false → s.accWritten = true →
      exec (.crcUpd b) s = .next { s with acc := crcByte s.acc b, reply := none }) ∧
    (s.phase.running = false → s.accWritten = false → exec (.crcUpd b) s = .refused .accUnwritten) ∧
    (s.phase.running = true → exec (.crcUpd b) s = .refused .engineRunning)

/-- CRC.RD, CMD 0x3: all 16 bits of ACC go to the host and nothing changes; refused when ACC has not been
written since reset, and while the engine runs (R75, R64, R40; the reply port is the model's, log 16). -/
def Obligations.CrcReadReturnsAcc : Prop :=
  (∀ operand seq, decode (.cmd 0x3 operand seq) = .ok .crcRd []) ∧
  ∀ s : State,
    (s.phase.running = false → s.accWritten = true →
      exec .crcRd s = .next { s with reply := some (.crc s.acc) }) ∧
    (s.phase.running = false → s.accWritten = false → exec .crcRd s = .refused .accUnwritten) ∧
    (s.phase.running = true → exec .crcRd s = .refused .engineRunning)

/-- CRC.BLK s: its result and ACC are crc16(s), nothing else changes; refused while the engine runs, R40.
crc16 starts from 0 and takes the bytes in order, and it has the source's check values (R72, R76; the reply port
is the model's, log 16). -/
def Obligations.CrcBlockReturnsCrc16 : Prop :=
  crc16 [] = 0x0000 ∧ (∀ s b, crc16 (s ++ [b]) = crcByte (crc16 s) b) ∧
  crc16 [0x31, 0x32, 0x33, 0x34, 0x35, 0x36, 0x37, 0x38, 0x39] = 0x31C3 ∧
  ∀ (bytes : List Byte) (s : State),
    (s.phase.running = false →
      exec (.crcBlk bytes) s =
        .next { s with acc := crc16 bytes, accWritten := true, reply := some (.crc (crc16 bytes)) }) ∧
    (s.phase.running = true → exec (.crcBlk bytes) s = .refused .engineRunning)

/-- CRC.BLK is its expansion: the host commands CRC.CLR, one CRC.UPD per byte, CRC.RD, one step each, lead to
the same state (R66, R76). -/
def Obligations.CrcBlockRefinesExpansion : Prop :=
  ∀ (bytes : List Byte) (s : State), s.phase.running = false → s.resetReq = false →
    steps (bytes.length + 2) { s with inputs := expand (.crcBlk bytes) } =
      exec (.crcBlk bytes) { s with inputs := [] }

/-! ## The frame encoder -/

/-- FRM.BUILD with a source read that delivers: FB reads as frame(chunk, BLK), RLEN is the chunk's length, EOF
says whether it was short, ACC is the CRC of the payload, RETRY is 0, PHASE is SEND, the source is past the
chunk; the frame has the fixed size; the link, BLK, PROG, ERR, ERRINFO and the parameters are untouched
(R85, R86, R88, R91, R92, R93, R97). -/
def Obligations.FrmBuildMakesFrame : Prop :=
  ∀ (s : State) (turns : List IoResult), s.phase = .build → s.src.turns = .ok :: turns →
    let n := payloadLen s.cfg.mode
    let chunk := (s.src.img.drop s.src.pos).take n
    ∃ t, exec .frmBuild s = .next t ∧ readFrame t = .next (frame s.cfg.mode chunk s.blk) ∧
      (frame s.cfg.mode chunk s.blk).length = frameLen s.cfg.mode ∧
      chunk.length = min n (s.src.img.length - s.src.pos) ∧ t.rlen.toNat = chunk.length ∧
      (t.eof = true ↔ chunk.length < n) ∧ t.acc = crc16 (payloadOf s.cfg.mode chunk) ∧
      t.accWritten = true ∧ t.retry = 0 ∧ t.phase = .send ∧
      t.src = { s.src with pos := s.src.pos + chunk.length, turns := turns } ∧
      t.blk = s.blk ∧ t.link = s.link ∧ t.prog = s.prog ∧ t.err = s.err ∧ t.errinfo = s.errinfo ∧
      t.cfg = s.cfg

/-- FRM.BUILD with a source read that fails: SourceIoError, nothing transmitted, no progress event; SRCPOS
stays within the image (R96, R149, R153, R20). FB, RLEN, EOF and ACC are free values: nothing is said of them.
That ACC counts as written or not as before is the model's choice (log 9). -/
def Obligations.FrmBuildRaisesSourceError : Prop :=
  ∀ (s : State) (turns : List IoResult), s.phase = .build → s.src.turns = .ioError :: turns →
    ∃ t, exec .frmBuild s = .next t ∧ t.phase = .error ∧ t.err = .sourceIoError ∧ t.link = s.link ∧
      t.prog = s.prog ∧ t.blk = s.blk ∧ t.retry = s.retry ∧ t.errinfo = s.errinfo ∧ t.cfg = s.cfg ∧
      t.accWritten = s.accWritten ∧ t.src.img = s.src.img ∧ t.src.pos ≤ s.src.img.length

/-- A micro-operation runs only in the phase that selects it (R63, R117; the refusal's name is the model's,
log 17). -/
def Obligations.MicroOperationsNeedTheirPhase : Prop :=
  ∀ s : State,
    (s.phase ≠ .build → exec .frmBuild s = .refused (.notSelected s.phase)) ∧
    (s.phase ≠ .send → exec .frmSend s = .refused (.notSelected s.phase) ∧
      exec .frmSendretry s = .refused (.notSelected s.phase)) ∧
    (s.phase ≠ .eot → exec .eotSend s = .refused (.notSelected s.phase))

/-! ## The link -/

/-- The events of an exchange come in the order clear, write, flush, read; the first primitive that fails ends
it; an exchange that does not fail has written the whole unit and flushed it; the link's configuration stays
(R41, R37, R152, R183). -/
def Obligations.ExchangeOrderFixed : Prop :=
  ∀ (unit : List Byte) (l l' : Link) (r : ReadResult), l.exchange unit = (r, l') →
    (r ≠ .ioError → l'.txLog = l.txLog ++ exchangeEvents unit r ∧ l'.txStream = l.txStream ++ unit ∧
      l'.txFlushed = l'.txStream.length) ∧
    (r = .ioError → ∃ events ∈ failedExchangeEvents unit, l'.txLog = l.txLog ++ events) ∧
    l'.readTimeout = l.readTimeout ∧ l'.baudRate = l.baudRate

/-- Whatever is written, the peer may answer an exchange with any byte, a timeout or an I/O error, and may fail
any of its primitives (R44; the script of turns is the model's, log 6). -/
def Obligations.PeerIsUnconstrained : Prop :=
  ∀ (unit : List Byte) (l : Link),
    (∀ r : ReadResult, ∃ turns, (Link.exchange unit { l with turns := turns }).1 = r) ∧
    (∀ events ∈ failedExchangeEvents unit, ∃ turns,
      (Link.exchange unit { l with turns := turns }).2.txLog = l.txLog ++ events)

/-- What an exchange does cannot depend on the bytes that were in RXBUF before it: a clear that succeeds discards
them, so the outcome and the whole link after it are the same; where the clear fails the exchange ends with it,
and RXBUF alone can differ (R41, R43, R37). What a failed clear leaves there is a free value of what it held
(log 8): nothing is said of it. -/
def Obligations.StaleBytesCannotMatter : Prop :=
  ∀ (unit stale : List Byte) (l : Link),
    let stained := Link.exchange unit { l with rxbuf := stale }
    let plain := l.exchange unit
    stained.1 = plain.1 ∧ { stained.2 with rxbuf := [] } = { plain.2 with rxbuf := [] } ∧
    (l.clearRx.1 = .ok → stained = plain)

/-! ## The transfer -/

/-- XFER.START in IDLE writes the start values; it does nothing on the link; in DONE and ERROR, and while the
engine runs, it is refused (R100, R64, R154, R40; the reply port is the model's, log 16). -/
def Obligations.XferStartWritesStartValues : Prop :=
  ∀ (img : List Byte) (s : State),
    (s.phase = .idle → exec (.xferStart img) s = .next { s with
      src := { s.src with img := img, pos := 0 }, prog := [], blk := 0x01, retry := 0, eof := false,
      err := .none, phase := .build, reply := none }) ∧
    (s.phase = .done ∨ s.phase = .error → exec (.xferStart img) s = .refused .transferEnded) ∧
    (s.phase.running = true → exec (.xferStart img) s = .refused .engineRunning)

/-- FRM.SEND: what each outcome of the exchange of FB does. ACK: progress, BLK + 1, then BUILD or, with EOF set,
EOT with RETRY = 0. NAK: a retry, at the ceiling TransferAborted. Any other byte: UnknownProtocolByte with the
byte. Timeout and I/O error: fatal, RETRY unchanged. Everything not named is as before (R104, R105, R106,
R107, R108, R109, R110, R153). The status in the reply port on an error is the model's (log 16), and so is the
test of the ceiling by equality, which counts a RETRY above MAX_RETRY on (log 19). -/
def Obligations.FrmSendAnswers : Prop :=
  ∀ (s : State) (unit : List Byte) (r : ReadResult) (l : Link),
    s.phase = .send → readFrame s = .next unit → s.link.exchange unit = (r, l) →
    (r = .byte 0x06 → s.eof = false → exec .frmSend s = .next { s with
      link := l, prog := s.prog ++ [s.blk], blk := s.blk + 1, phase := .build }) ∧
    (r = .byte 0x06 → s.eof = true → exec .frmSend s = .next { s with
      link := l, prog := s.prog ++ [s.blk], blk := s.blk + 1, retry := 0, phase := .eot }) ∧
    (r = .byte 0x15 → s.retry ≠ s.cfg.maxRetry → exec .frmSend s = .next { s with
      link := l, retry := s.retry + 1 }) ∧
    (r = .byte 0x15 → s.retry = s.cfg.maxRetry →
      exec .frmSend s = .next (failed .transferAborted { s with link := l })) ∧
    (∀ b, r = .byte b → b ≠ 0x06 → b ≠ 0x15 →
      exec .frmSend s = .next (failed .unknownProtocolByte { s with link := l, errinfo := b })) ∧
    (r = .timeout → exec .frmSend s = .next (failed .linkTimeout { s with link := l })) ∧
    (r = .ioError → exec .frmSend s = .next (failed .linkIoError { s with link := l }))

/-- EOT.SEND: what each outcome of the exchange of 0x04 does. ACK: DONE. Any other byte: a retry, at the ceiling
TransferAborted; no byte is fatal by its value. Timeout and I/O error: fatal. Everything not named is as before
(R111, R112, R113, R114, R115). The status in the reply port on DONE and on an error is the model's (log 16), and
so is the test of the ceiling by equality, which counts a RETRY above MAX_RETRY on (log 19). -/
def Obligations.EotSendAnswers : Prop :=
  ∀ (s : State) (r : ReadResult) (l : Link), s.phase = .eot → s.link.exchange [0x04] = (r, l) →
    (r = .byte 0x06 → exec .eotSend s = .next { s with
      link := l, phase := .done, reply := some (.status .done s.err) }) ∧
    (∀ b, r = .byte b → b ≠ 0x06 → s.retry ≠ s.cfg.maxRetry → exec .eotSend s = .next { s with
      link := l, retry := s.retry + 1 }) ∧
    (∀ b, r = .byte b → b ≠ 0x06 → s.retry = s.cfg.maxRetry →
      exec .eotSend s = .next (failed .transferAborted { s with link := l })) ∧
    (r = .timeout → exec .eotSend s = .next (failed .linkTimeout { s with link := l })) ∧
    (r = .ioError → exec .eotSend s = .next (failed .linkIoError { s with link := l }))

/-- FRM.SENDRETRY completes, and never in SEND, from every state whose frame buffer is written, provided each
primitive returns, as in this model each does (log 23) (R127, R119). For RETRY above MAX_RETRY those rules say
nothing: that it completes there too is the model's, by the test of the ceiling by equality, the wrap of RETRY in
4 bits (log 19) and the count of 16 sends (log 18). -/
def Obligations.FrmSendretryLeavesSend : Prop :=
  ∀ (s : State) (unit : List Byte), s.phase = .send → readFrame s = .next unit →
    ∃ t, exec .frmSendretry s = .next t ∧ t.phase ≠ .send ∧ t.phase ≠ .idle ∧ t.phase ≠ .done ∧
      t.fb = s.fb ∧ t.src = s.src

/-- The retry ceiling of a frame: with k NAKs, k at most MAX_RETRY, and then an ACK the frame has been written
k + 1 times, byte-identical, and is acknowledged; with MAX_RETRY + 1 NAKs it has been written MAX_SENDS times and
the transfer is aborted with RETRY = MAX_RETRY (R105, R106, R119, R127). -/
def Obligations.FrmSendretryCeiling : Prop :=
  ∀ (s : State) (unit : List Byte) (turns : List LinkTurn),
    s.phase = .send → readFrame s = .next unit → s.retry = 0 →
    (∀ k, k ≤ s.cfg.maxRetry.toNat →
      s.link.turns = answersTurns (List.replicate k 0x15 ++ [0x06]) ++ turns →
      ∃ t, exec .frmSendretry s = .next t ∧ t.phase = (if s.eof then .eot else .build) ∧
        t.prog = s.prog ++ [s.blk] ∧ t.blk = s.blk + 1 ∧ t.err = s.err ∧
        unitsWritten t.link.txLog = unitsWritten s.link.txLog ++ List.replicate (k + 1) unit) ∧
    (s.link.turns = answersTurns (List.replicate (maxSends s.cfg) 0x15) ++ turns →
      ∃ t, exec .frmSendretry s = .next t ∧ t.phase = .error ∧ t.err = .transferAborted ∧
        t.retry = s.cfg.maxRetry ∧ t.blk = s.blk ∧ t.prog = s.prog ∧
        unitsWritten t.link.txLog = unitsWritten s.link.txLog ++ List.replicate (maxSends s.cfg) unit)

/-- Every transfer ends, provided each primitive returns (R129), as in this model each does (log 23): XFER.RUN from
IDLE answers a state in DONE or ERROR, whatever the image is and whatever the peer's and the source's primitives
return (R128, R129; XFER.RUN as one operation with its count is the model's, log 18). -/
def Obligations.XferRunEnds : Prop :=
  ∀ (img : List Byte) (s : State), s.phase = .idle → ∃ t, exec (.xferRun img) s = .next t ∧ Ended t

/-- A peer that acknowledges everything: K = L / N + 1 frames with ids 1 to K mod 256, each the frame of its
chunk, then one EOT, in this order and nothing else; PROG the K ids; DONE, BLK = 1 + K mod 256, RETRY = 0,
EOF = 1, SRCPOS = L (R118, R116, R128). The final status in the reply port is the model's (log 16). -/
def Obligations.XferRunAllAcknowledged : Prop :=
  ∀ (img : List Byte) (s : State) (reads : List IoResult) (turns : List LinkTurn),
    let m := s.cfg.mode
    let count := img.length / payloadLen m + 1
    let ids := (List.range count).map (fun k => BitVec.ofNat 8 (k + 1))
    let frames := (List.range count).map (fun k => frame m (chunkOf m img k) (BitVec.ofNat 8 (k + 1)))
    s.phase = .idle → s.src.turns = List.replicate count .ok ++ reads →
    s.link.turns = answersTurns (List.replicate (count + 1) 0x06) ++ turns →
    ∃ t, exec (.xferRun img) s = .next t ∧ t.phase = .done ∧ t.err = .none ∧
      t.blk = BitVec.ofNat 8 (1 + count) ∧ t.retry = 0 ∧ t.eof = true ∧ t.src.pos = img.length ∧
      t.prog = ids ∧
      unitsWritten t.link.txLog = unitsWritten s.link.txLog ++ frames ++ [[0x04]] ∧
      t.link.txStream = s.link.txStream ++ frames.flatten ++ [0x04] ∧
      (frames.flatten ++ [0x04]).length = count * frameLen m + 1 ∧
      t.reply = some (.status .done .none)

/-- XFER.RUN is its expansion: the host command XFER.START and then the engine's own steps lead to the same
state (R66, R101, R128; the requests, the count of steps and that each primitive returns are the model's, log 11,
log 18, log 23). -/
def Obligations.XferRunRefinesSteps : Prop :=
  ∀ (img : List Byte) (s : State), s.phase = .idle → s.resetReq = false →
    steps (transferBound s.cfg img.length + 1) { s with inputs := expand (.xferRun img) } =
      exec (.xferRun img) { s with inputs := [] }

/-! ## The decoders -/

/-- RSP.DEC classifies its byte (R130). That it hands the result to the reply port, in every phase, is the
model's (log 16): R130 makes it no host operation. -/
def Obligations.RspDecClassifies : Prop :=
  ∀ (b : Byte) (s : State), ∃ r, exec (.rspDec b) s = .next { s with reply := some (.response r) } ∧
    (b = 0x06 → r = .ack) ∧ (b = 0x15 → r = .nak) ∧ (b ≠ 0x06 ∧ b ≠ 0x15 → r = .other b)

/-- FRM.CHK: the four tests in the order length, magic, complement, CRC; the block's registers are untouched;
refused while the engine runs (R132, R133, R143, R144; the reply port is the model's, log 16). -/
def Obligations.FrmChkVerdict : Prop :=
  ∀ (f : List Byte) (s : State),
    let n := payloadLen s.cfg.mode
    let answers := fun r => exec (.frmChk f) s = .next { s with reply := some (.check r) }
    let magicOk := f[0]? = some (magicByte s.cfg.mode)
    let complementOk := ((f.getD 1 0).toNat + (f.getD 2 0).toNat) % 256 = 255
    let crcOk := (crc16 ((f.drop 3).take n)).toNat =
      (f.getD (3 + n) 0).toNat * 256 + (f.getD (3 + n + 1) 0).toNat
    (s.phase.running = false →
      (f.length ≠ n + 5 → answers (.invalid .badLength)) ∧
      (f.length = n + 5 → ¬ magicOk → answers (.invalid .badMagic)) ∧
      (f.length = n + 5 → magicOk → ¬ complementOk → answers (.invalid .badComplement)) ∧
      (f.length = n + 5 → magicOk → complementOk → ¬ crcOk → answers (.invalid .badCrc)) ∧
      (f.length = n + 5 → magicOk → complementOk → crcOk →
        answers (.valid (f.getD 1 0) ((f.drop 3).take n)))) ∧
    (s.phase.running = true → exec (.frmChk f) s = .refused .engineRunning)

/-- The check is the inverse of the encoder, both ways (R136). -/
def Obligations.FrameCheckRoundTrip : Prop :=
  (∀ (m : Mode) (chunk : List Byte) (id : Byte), chunk.length ≤ payloadLen m →
    checkFrame m (frame m chunk id) = .valid id (payloadOf m chunk)) ∧
  (∀ (m : Mode) (f : List Byte) (id : Byte) (payload : List Byte),
    checkFrame m f = .valid id payload → payload.length = payloadLen m ∧ f = frame m payload id)

/-- A frame that differs from a valid one in exactly one bit is never valid (R137). -/
def Obligations.SingleBitErrorDetected : Prop :=
  ∀ (m : Mode) (f : List Byte) (id : Byte) (payload : List Byte) (i k : Nat),
    checkFrame m f = .valid id payload → i < frameLen m → k < 8 →
    ∃ reason, checkFrame m (flipBit f i k) = .invalid reason

/-- The residue form of the CRC test (R138). -/
def Obligations.FrameCheckResidueForm : Prop :=
  ∀ (payload : List Byte) (hi lo : Byte),
    crc16 payload = be16 hi lo ↔ crc16 (payload ++ [hi, lo]) = 0x0000

/-! ## The wire symbols as operations (log 12, log 13: what a unit is in each phase is the model's reading) -/

/-- ACK, NAK, CAN and CRCREQ: in SEND and EOT the answer of the exchange of the running phase, with the effect
R131, R59 and R60 give it; in the other phases a byte in RXBUF (R22). The status in the reply port is the model's
(log 16); so is the test of the ceiling by equality, which counts a RETRY above MAX_RETRY on, where R105 and R113 say
RETRY < MAX_RETRY (log 19). The 0x43 in ERRINFO for CRCREQ rests on 'C' being that byte, which is presumed (log 21). -/
def Obligations.PeerSymbolsByPhase : Prop :=
  ∀ (s : State) (unit : List Byte),
    (s.phase = .send → readFrame s = .next unit →
      (s.eof = false → exec .ack s = .next { s with
        link := s.link.answered unit 0x06 [], prog := s.prog ++ [s.blk], blk := s.blk + 1,
        phase := .build }) ∧
      (s.eof = true → exec .ack s = .next { s with
        link := s.link.answered unit 0x06 [], prog := s.prog ++ [s.blk], blk := s.blk + 1, retry := 0,
        phase := .eot }) ∧
      (s.retry ≠ s.cfg.maxRetry → exec .nak s = .next { s with
        link := s.link.answered unit 0x15 [], retry := s.retry + 1 }) ∧
      (s.retry = s.cfg.maxRetry → exec .nak s = .next (failed .transferAborted { s with
        link := s.link.answered unit 0x15 [] })) ∧
      exec .can s = .next (failed .unknownProtocolByte { s with
        link := s.link.answered unit 0x18 [], errinfo := 0x18 }) ∧
      exec .crcreq s = .next (failed .unknownProtocolByte { s with
        link := s.link.answered unit 0x43 [], errinfo := 0x43 })) ∧
    (s.phase = .eot →
      exec .ack s = .next { s with
        link := s.link.answered [0x04] 0x06 [], phase := .done, reply := some (.status .done s.err) } ∧
      (∀ ib ∈ [(Instr.nak, (0x15 : Byte)), (.can, 0x18), (.crcreq, 0x43)],
        (s.retry ≠ s.cfg.maxRetry → exec ib.1 s = .next { s with
          link := s.link.answered [0x04] ib.2 [], retry := s.retry + 1 }) ∧
        (s.retry = s.cfg.maxRetry → exec ib.1 s = .next (failed .transferAborted { s with
          link := s.link.answered [0x04] ib.2 [] })))) ∧
    (s.phase ≠ .send → s.phase ≠ .eot →
      ∀ ib ∈ [(Instr.ack, (0x06 : Byte)), (.nak, 0x15), (.can, 0x18), (.crcreq, 0x43)],
        exec ib.1 s = .next { s with link := { s.link with rxbuf := s.link.rxbuf ++ [ib.2] } })

/-- EOT: in the EOT phase the engine's own exchange (R111); in SEND, received, an unknown byte (R57); in the
other phases a byte in RXBUF (R22). The status in the reply port is the model's (log 16). -/
def Obligations.EotSymbolByPhase : Prop :=
  ∀ (s : State) (unit : List Byte),
    (s.phase = .eot → exec .eot s = exec .eotSend s ∧ ∃ t, exec .eot s = .next t) ∧
    (s.phase = .send → readFrame s = .next unit → exec .eot s = .next (failed .unknownProtocolByte { s with
      link := s.link.answered unit 0x04 [], errinfo := 0x04 })) ∧
    (s.phase ≠ .send → s.phase ≠ .eot → exec .eot s = .next { s with
      link := { s.link with rxbuf := s.link.rxbuf ++ [0x04] } })

/-- The data units, of either magic byte: while the engine does not run the result of the frame check
(R61, R132); in BUILD and SEND the engine's own unit is FRM.BUILD and FRM.SEND (R85, R103); in SEND any other
unit is an unknown byte, its magic (R57), in EOT a retry or, at the ceiling, the abort (R58), the bytes after it
left in RXBUF (R38). The reply port is the model's (log 16); so is the test of the ceiling by equality, which counts
a RETRY above MAX_RETRY on, where R113 says RETRY < MAX_RETRY (log 19). -/
def Obligations.DataUnitsByPhase : Prop :=
  ∀ (i : Instr) (magic : Byte) (more : List Byte) (s : State) (unit : List Byte),
    (∃ id cmpl payload hi lo, (i = .magic128 id cmpl payload hi lo ∧ magic = 0x01 ∨
      i = .magic1k id cmpl payload hi lo ∧ magic = 0x02) ∧
      more = id :: cmpl :: (payload ++ [hi, lo])) →
    (s.phase.running = false → exec i s = .next { s with
      reply := some (.check (checkFrame s.cfg.mode (magic :: more))) }) ∧
    (s.phase = .build → magic :: more =
        frame s.cfg.mode ((s.src.img.drop s.src.pos).take (payloadLen s.cfg.mode)) s.blk →
      exec i s = exec .frmBuild s) ∧
    (s.phase = .build → magic :: more ≠
        frame s.cfg.mode ((s.src.img.drop s.src.pos).take (payloadLen s.cfg.mode)) s.blk →
      exec i s = .next { s with link := { s.link with rxbuf := s.link.rxbuf ++ magic :: more } }) ∧
    (s.phase = .send → readFrame s = .next (magic :: more) → exec i s = exec .frmSend s) ∧
    (s.phase = .send → readFrame s = .next unit → unit ≠ magic :: more →
      exec i s = .next (failed .unknownProtocolByte { s with
        link := s.link.answered unit magic more, errinfo := magic })) ∧
    (s.phase = .eot → s.retry ≠ s.cfg.maxRetry → exec i s = .next { s with
      link := s.link.answered [0x04] magic more, retry := s.retry + 1 }) ∧
    (s.phase = .eot → s.retry = s.cfg.maxRetry → exec i s = .next (failed .transferAborted { s with
      link := s.link.answered [0x04] magic more }))

/-! ## Frames: what an operation leaves unchanged when it answers a next state -/

/-- Only FRM.BUILD, XFER.RUN and a data unit in BUILD may store into the frame buffer; for every other operation
every byte of it reads as before. No operation changes a byte outside 0 to FRAME_LEN - 1 (R14, R28, R35, R181). -/
def Obligations.FrameBufferStores : Prop :=
  ∀ (i : Instr) (s t : State), exec i s = .next t →
    (mayStore i s = false → ∀ a, Memory.read t.fb a = Memory.read s.fb a) ∧
    (FrameBufferOk s → ∀ a, frameLen s.cfg.mode ≤ a → Memory.read t.fb a = Memory.read s.fb a)

/-- No operation changes the parameters, the link's configuration, the pending requests or the reset request
(R1, R19, R23, R183). The list of pending requests and the reset request are the model's fields (log 11, log 10):
that no operation changes them is the model's choice. -/
def Obligations.ParametersNeverChange : Prop :=
  ∀ (i : Instr) (s t : State), exec i s = .next t →
    t.cfg = s.cfg ∧ t.link.readTimeout = s.link.readTimeout ∧ t.link.baudRate = s.link.baudRate ∧
    t.inputs = s.inputs ∧ t.resetReq = s.resetReq

/-- The generator's operations and the decoders leave the engine, the source and the link alone, the decoders
ACC as well (R84, R132, R143). -/
def Obligations.HostOperationsFrame : Prop :=
  ∀ (i : Instr) (s t : State), exec i s = .next t →
    (i = .crcClr ∨ (∃ b, i = .crcUpd b) ∨ i = .crcRd ∨ (∃ bytes, i = .crcBlk bytes) ∨
      (∃ f, i = .frmChk f) ∨ (∃ b, i = .rspDec b) →
      t.blk = s.blk ∧ t.retry = s.retry ∧ t.rlen = s.rlen ∧ t.eof = s.eof ∧ t.fb = s.fb ∧
      t.phase = s.phase ∧ t.err = s.err ∧ t.errinfo = s.errinfo ∧ t.src = s.src ∧ t.link = s.link ∧
      t.prog = s.prog) ∧
    (i = .crcRd ∨ (∃ f, i = .frmChk f) ∨ (∃ b, i = .rspDec b) →
      t.acc = s.acc ∧ t.accWritten = s.accWritten)

/-- The engine's operations and the one-byte symbols leave the accumulator, RLEN, EOF, FB and the source alone
(XFER.START sets the source and EOF); EOT.SEND also BLK, PROG and ERRINFO; FRM.BUILD leaves BLK, PROG, ERRINFO
and the link alone, XFER.START the accumulator, RLEN, FB, ERRINFO and the link (R28, R97, R105, R111). -/
def Obligations.EngineOperationsFrame : Prop :=
  ∀ (i : Instr) (s t : State), exec i s = .next t →
    (i = .frmSend ∨ i = .eotSend ∨ i = .frmSendretry ∨ i = .eot ∨ i = .ack ∨ i = .nak ∨ i = .can ∨
      i = .crcreq → t.acc = s.acc ∧ t.accWritten = s.accWritten ∧ t.rlen = s.rlen ∧ t.eof = s.eof ∧
      t.fb = s.fb ∧ t.src = s.src) ∧
    (i = .eotSend → t.blk = s.blk ∧ t.prog = s.prog ∧ t.errinfo = s.errinfo) ∧
    (i = .frmBuild → t.blk = s.blk ∧ t.prog = s.prog ∧ t.errinfo = s.errinfo ∧ t.link = s.link) ∧
    ((∃ img, i = .xferStart img) → t.acc = s.acc ∧ t.accWritten = s.accWritten ∧ t.rlen = s.rlen ∧
      t.fb = s.fb ∧ t.errinfo = s.errinfo ∧ t.link = s.link)

/-- The data units leave, in every phase but BUILD, the accumulator, RLEN, EOF, FB and the source alone; while the
engine does not run, every register of the block and the link (R28, R132; log 12, log 13). -/
def Obligations.DataUnitsFrame : Prop :=
  ∀ (i : Instr) (s t : State),
    (∃ id cmpl payload hi lo, i = .magic128 id cmpl payload hi lo ∨ i = .magic1k id cmpl payload hi lo) →
    exec i s = .next t →
    (s.phase ≠ .build → t.acc = s.acc ∧ t.accWritten = s.accWritten ∧ t.rlen = s.rlen ∧ t.eof = s.eof ∧
      t.fb = s.fb ∧ t.src = s.src) ∧
    (s.phase.running = false → t.blk = s.blk ∧ t.retry = s.retry ∧ t.phase = s.phase ∧ t.err = s.err ∧
      t.errinfo = s.errinfo ∧ t.link = s.link ∧ t.prog = s.prog)

/-! ## Invariants and whole-machine rules -/

/-- The state after reset is sound. -/
def Obligations.ResetIsSound : Prop := Sound State.reset

/-- Every step keeps soundness: the frame buffer canonical and within the frame, SRCPOS within the image, RETRY
within its ceiling, ERR in step with PHASE, and BLK, SRCPOS, RLEN, EOF and FB where the acknowledged frames put
them (R11, R12, R17, R20, R31, R42, R92, R95, R181). -/
def Obligations.StepKeepsSound : Prop := ∀ s t : State, Sound s → step s = .next t → Sound t

/-- Every operation keeps the frame buffer's canonical form, whatever else the state is. -/
def Obligations.ExecKeepsFrameBuffer : Prop :=
  ∀ (i : Instr) (s t : State), FrameBufferOk s → exec i s = .next t → FrameBufferOk t

/-- Within a run nothing is removed from TXLOG or from the transmit stream: a step adds events at the end of the
one, and at the end of the other no bytes but those its writes carry, in order. A hardware reset starts a run with
an empty TXLOG and recalls no byte (R21, R37, R171; the transmit stream as a list is the model's, log 20, what a
failed write leaves out a free value, log 8). -/
def Obligations.StepAppendsToStreamAndLog : Prop :=
  ∀ s t : State, step s = .next t →
    (s.resetReq = false → s.link.Extends t.link) ∧
    (s.resetReq = true → t.link.txLog = [] ∧ t.link.txStream = s.link.txStream)

/-- Every step keeps: the block puts nothing on the link but whole frames and EOT bytes, so no CAN, no ACK, no
NAK (R37, R59, R126). -/
def Obligations.StepKeepsUnitsOnly : Prop := ∀ s t : State, UnitsOnly s → step s = .next t → UnitsOnly t

/-- No step faults: no operation makes an index outside the frame buffer (R35). -/
def Obligations.NoStepFaults : Prop := ∀ (s : State) (f : Fault), step s ≠ .fault f

/-- From a sound state the engine, while it runs, always has its step (R122); that each primitive of it returns is
log 23. -/
def Obligations.RunningEngineSteps : Prop :=
  ∀ s : State, Sound s → s.phase.running = true → ∃ t, step s = .next t

/-- PHASE changes only along the transition table: a step that changes it goes along one of its edges (R117). -/
def Obligations.PhaseFollowsTable : Prop :=
  ∀ s t : State, s.resetReq = false → step s = .next t →
    t.phase = s.phase ∨ (s.phase = .idle ∧ t.phase = .build) ∨
    (s.phase = .build ∧ (t.phase = .send ∨ t.phase = .error)) ∨
    (s.phase = .send ∧ (t.phase = .build ∨ t.phase = .eot ∨ t.phase = .error)) ∨
    (s.phase = .eot ∧ (t.phase = .done ∨ t.phase = .error))

/-- DONE and ERROR are absorbing: no step leaves them but a hardware reset, ERR stays, and nothing more is sent
(R126, R154, R191). -/
def Obligations.EndIsAbsorbing : Prop :=
  ∀ s t : State, Ended s → s.resetReq = false → step s = .next t →
    t.phase = s.phase ∧ t.err = s.err ∧ t.link.txLog = s.link.txLog ∧
    t.link.txStream = s.link.txStream ∧ t.prog = s.prog ∧ t.blk = s.blk

/-- No read-ahead: a step in SEND or EOT moves nothing of the image source and re-reads nothing, so a retry sends
the frame already built (R42, R95, R105). -/
def Obligations.NoReadWhileUnacknowledged : Prop :=
  ∀ s t : State, s.resetReq = false → s.phase = .send ∨ s.phase = .eot → step s = .next t →
    t.src = s.src ∧ t.fb = s.fb ∧ t.eof = s.eof ∧ t.rlen = s.rlen ∧ t.acc = s.acc

/-- A step that enters ERROR leaves the code of one of the block's five errors, raised in the phase its row names;
for UnknownProtocolByte ERRINFO is the byte just read (R145, R146, R147, R148, R149,
R150). -/
def Obligations.ErrorsByPhase : Prop :=
  ∀ s t : State, s.resetReq = false → s.phase ≠ .error → step s = .next t → t.phase = .error →
    (s.phase = .build ∧ t.err = .sourceIoError) ∨
    ((s.phase = .send ∨ s.phase = .eot) ∧
      (t.err = .linkIoError ∨ t.err = .linkTimeout ∨ t.err = .transferAborted)) ∨
    (s.phase = .send ∧ t.err = .unknownProtocolByte ∧
      t.link.txLog.getLast? = some (.read (.byte t.errinfo)) ∧ t.errinfo ≠ 0x06 ∧ t.errinfo ≠ 0x15)

/-- In SEND with a frame-buffer byte that nothing has written since reset, an operation that sends the frame is
refused by the first such index: FRM.SEND, FRM.SENDRETRY, and the wire units, received as the answer (R26, R64; the refusal's name and the units as operations are the model's, log 3, log 12). No run from reset comes there:
RunningEngineSteps. -/
def Obligations.SendOfUnwrittenFrameRefused : Prop :=
  ∀ (s : State) (j : Nat), s.phase = .send → j < frameLen s.cfg.mode → Memory.read s.fb j = none →
    (∀ i, i < j → Memory.read s.fb i ≠ none) →
    (∀ i ∈ [Instr.frmSend, .frmSendretry, .eot, .ack, .nak, .can, .crcreq],
      exec i s = .refused (.frameByteUnwritten j)) ∧
    ∀ id cmpl payload hi lo,
      exec (.magic128 id cmpl payload hi lo) s = .refused (.frameByteUnwritten j) ∧
      exec (.magic1k id cmpl payload hi lo) s = .refused (.frameByteUnwritten j)
end

