-- ==== Sys2Proof/Laws/Decode.lean ====
section
/-! SUPPORT. What the splitting of a data unit can answer, both ways. -/

namespace Sys2Proof

/-- A split that answers took a payload of the length asked for, and its fields are the bytes. -/
theorem splitData_some {n : Nat} {bs : List Byte} {x : Byte × Byte × List Byte × Byte × Byte × List Byte}
    (h : splitData n bs = some x) :
    x.2.2.1.length = n ∧
      bs = x.1 :: x.2.1 :: (x.2.2.1 ++ x.2.2.2.1 :: x.2.2.2.2.1 :: x.2.2.2.2.2) := by
  unfold splitData at h
  split at h
  · split at h
    · rename_i hd
      cases h
      have hl := congrArg List.length hd
      simp only [List.length_drop, List.length_cons] at hl
      refine ⟨by simp only [List.length_take]; omega, ?_⟩
      simp only [List.cons.injEq, true_and]
      rw [← hd, List.take_append_drop]
    · cases h
  · cases h

/-- The fields of a unit's bytes split back into themselves. -/
theorem splitData_of {n : Nat} {id cmpl : Byte} {payload : List Byte} {hi lo : Byte} {rest : List Byte}
    (h : payload.length = n) :
    splitData n (id :: cmpl :: (payload ++ hi :: lo :: rest)) = some (id, cmpl, payload, hi, lo, rest) := by
  subst h
  simp [splitData]

end Sys2Proof
end

