-- ==== Sys2Proof/Laws/Memory.lean ====
section
/-! SUPPORT. The frame buffer's memory: a read after a write, and the canonical form kept by every write. -/

namespace Sys2Proof.Machine

theorem Memory.wf_nil : Memory.wf [] := List.Pairwise.nil

theorem cells_length (a : Nat) (bytes : List Byte) : (cells a bytes).length = bytes.length := by
  induction bytes generalizing a with
  | nil => rfl
  | cons v vs ih => simp [cells, ih]

/-- The indexes of `cells`. -/
theorem mem_cells_bounds {a : Nat} {bytes : List Byte} {c : Host.Cell} (h : c ∈ cells a bytes) :
    a ≤ c.1 ∧ c.1 < a + bytes.length := by
  induction bytes generalizing a with
  | nil => simp [cells] at h
  | cons v vs ih =>
    simp only [cells, List.mem_cons] at h
    rcases h with rfl | h
    · simp
    · have := ih h
      simp only [List.length_cons]
      omega

theorem cells_wf (a : Nat) (bytes : List Byte) : Memory.wf (cells a bytes) := by
  induction bytes generalizing a with
  | nil => exact .nil
  | cons v vs ih =>
    refine .cons (fun c h => ?_) (ih (a + 1))
    have := mem_cells_bounds h
    simp only
    omega

/-- Every write keeps the canonical form. -/
theorem Memory.writeRange_wf {m : Memory} (h : m.wf) (a : Nat) (bytes : List Byte) :
    (m.writeRange a bytes).wf := by
  unfold Memory.writeRange Memory.wf
  rw [List.pairwise_append, List.pairwise_append]
  refine ⟨⟨h.filter _, cells_wf a bytes, ?_⟩, h.filter _, ?_⟩
  · intro x hx y hy
    have := mem_cells_bounds hy
    simp only [List.mem_filter, decide_eq_true_eq] at hx
    omega
  · intro x hx y hy
    simp only [List.mem_append, List.mem_filter, decide_eq_true_eq] at hx hy
    rcases hx with hx | hx
    · omega
    · have := mem_cells_bounds hx
      omega

/-- The write of one byte keeps the canonical form. -/
theorem Memory.write_wf {m : Memory} (h : m.wf) (a : Nat) (v : Byte) : (m.write a v).wf :=
  Memory.writeRange_wf h a [v]

theorem Memory.read_append (m₁ m₂ : Memory) (a : Nat) :
    Memory.read (m₁ ++ m₂) a = (Memory.read m₁ a).or (Memory.read m₂ a) := by
  induction m₁ with
  | nil => simp [Memory.read]
  | cons c m ih =>
    obtain ⟨b, v⟩ := c
    by_cases h : a = b <;> simp [Memory.read, h, ih]

theorem Memory.read_none_of_forall {m : Memory} {a : Nat} (h : ∀ c ∈ m, c.1 ≠ a) :
    Memory.read m a = none := by
  induction m with
  | nil => rfl
  | cons c m ih =>
    obtain ⟨b, v⟩ := c
    have hb : a ≠ b := fun e => h (b, v) (by simp) e.symm
    simp only [Memory.read, hb, if_false]
    exact ih fun c hc => h c (by simp [hc])

theorem Memory.read_filter_of {p : Nat → Bool} {a : Nat} (h : p a = true) (m : Memory) :
    Memory.read (m.filter (fun c => p c.1)) a = Memory.read m a := by
  induction m with
  | nil => rfl
  | cons c m ih =>
    obtain ⟨b, v⟩ := c
    by_cases hb : p b = true
    · simp [hb, Memory.read, ih]
    · have : a ≠ b := fun e => hb (e ▸ h)
      simp [hb, Memory.read, ih, this]

theorem cells_read (a : Nat) (bytes : List Byte) (i : Nat) :
    Memory.read (cells a bytes) i = if a ≤ i then bytes[i - a]? else none := by
  induction bytes generalizing a with
  | nil => simp [cells, Memory.read]
  | cons v vs ih =>
    simp only [cells, Memory.read, ih]
    rcases Nat.lt_trichotomy i a with h | h | h
    · have h1 : i ≠ a := by omega
      have h2 : ¬ a ≤ i := by omega
      have h3 : ¬ a + 1 ≤ i := by omega
      simp [h1, h2, h3]
    · subst h
      simp
    · have h1 : i ≠ a := by omega
      have h2 : a ≤ i := by omega
      have h3 : a + 1 ≤ i := by omega
      have h4 : i - a = (i - (a + 1)) + 1 := by omega
      simp [h1, h2, h3, h4]

/-- A read inside the range just written gives the byte written. -/
theorem Memory.read_writeRange_inside (m : Memory) {a i : Nat} {bytes : List Byte} (h : a ≤ i)
    (h' : i < a + bytes.length) : Memory.read (m.writeRange a bytes) i = bytes[i - a]? := by
  unfold Memory.writeRange
  rw [Memory.read_append, Memory.read_append,
    Memory.read_none_of_forall (m := m.filter _), cells_read]
  · have hl : i - a < bytes.length := by omega
    simp [h, hl]
  · intro c hc
    simp only [List.mem_filter, decide_eq_true_eq] at hc
    omega

/-- A read outside the range just written gives what it gave before. -/
theorem Memory.read_writeRange_outside (m : Memory) {a i : Nat} {bytes : List Byte}
    (h : i < a ∨ a + bytes.length ≤ i) : Memory.read (m.writeRange a bytes) i = Memory.read m i := by
  unfold Memory.writeRange
  have hc : Memory.read (cells a bytes) i = none := by
    refine Memory.read_none_of_forall fun c hc => ?_
    have := mem_cells_bounds hc
    omega
  rw [Memory.read_append, Memory.read_append, hc]
  rcases h with h | h
  · rw [Memory.read_filter_of (p := fun x => decide (x < a)) (by simpa using h),
      Memory.read_none_of_forall (m := m.filter _)]
    · simp
    · intro c hc
      simp only [List.mem_filter, decide_eq_true_eq] at hc
      omega
  · rw [Memory.read_filter_of (p := fun x => decide (a + bytes.length ≤ x)) (by simpa using h),
      Memory.read_none_of_forall (m := m.filter _)]
    · simp
    · intro c hc
      simp only [List.mem_filter, decide_eq_true_eq] at hc
      omega

/-- A write over everything that is listed leaves only the bytes written. -/
theorem Memory.writeRange_all {m : Memory} {bytes : List Byte} (h : ∀ c ∈ m, c.1 < bytes.length) :
    m.writeRange 0 bytes = cells 0 bytes := by
  unfold Memory.writeRange
  have h1 : m.filter (fun c => c.1 < 0) = [] := by simp
  have h2 : m.filter (fun c => 0 + bytes.length ≤ c.1) = [] := by
    simp only [List.filter_eq_nil_iff, decide_eq_true_eq]
    intro c hc
    have := h c hc
    omega
  rw [h1, h2]
  simp

end Sys2Proof.Machine
end

