-- ==== Sys2Proof/Laws/State.lean ====
section
/-! SUPPORT. What each named update does to each field: one lemma per field per update, all by rfl. -/

namespace Sys2Proof.Machine

@[simp] theorem giveReply_cfg (r : Reply) (s : State) :
    (giveReply r s).cfg = s.cfg := rfl
@[simp] theorem giveReply_acc (r : Reply) (s : State) :
    (giveReply r s).acc = s.acc := rfl
@[simp] theorem giveReply_accWritten (r : Reply) (s : State) :
    (giveReply r s).accWritten = s.accWritten := rfl
@[simp] theorem giveReply_blk (r : Reply) (s : State) :
    (giveReply r s).blk = s.blk := rfl
@[simp] theorem giveReply_retry (r : Reply) (s : State) :
    (giveReply r s).retry = s.retry := rfl
@[simp] theorem giveReply_rlen (r : Reply) (s : State) :
    (giveReply r s).rlen = s.rlen := rfl
@[simp] theorem giveReply_eof (r : Reply) (s : State) :
    (giveReply r s).eof = s.eof := rfl
@[simp] theorem giveReply_fb (r : Reply) (s : State) :
    (giveReply r s).fb = s.fb := rfl
@[simp] theorem giveReply_phase (r : Reply) (s : State) :
    (giveReply r s).phase = s.phase := rfl
@[simp] theorem giveReply_err (r : Reply) (s : State) :
    (giveReply r s).err = s.err := rfl
@[simp] theorem giveReply_errinfo (r : Reply) (s : State) :
    (giveReply r s).errinfo = s.errinfo := rfl
@[simp] theorem giveReply_src (r : Reply) (s : State) :
    (giveReply r s).src = s.src := rfl
@[simp] theorem giveReply_link (r : Reply) (s : State) :
    (giveReply r s).link = s.link := rfl
@[simp] theorem giveReply_prog (r : Reply) (s : State) :
    (giveReply r s).prog = s.prog := rfl
@[simp] theorem giveReply_reply (r : Reply) (s : State) :
    (giveReply r s).reply = some r := rfl
@[simp] theorem giveReply_inputs (r : Reply) (s : State) :
    (giveReply r s).inputs = s.inputs := rfl
@[simp] theorem giveReply_resetReq (r : Reply) (s : State) :
    (giveReply r s).resetReq = s.resetReq := rfl
@[simp] theorem giveReply_draws (r : Reply) (s : State) :
    (giveReply r s).draws = s.draws := rfl

@[simp] theorem raiseError_cfg (x : ErrCode) (info : Byte) (s : State) :
    (raiseError x info s).cfg = s.cfg := rfl
@[simp] theorem raiseError_acc (x : ErrCode) (info : Byte) (s : State) :
    (raiseError x info s).acc = s.acc := rfl
@[simp] theorem raiseError_accWritten (x : ErrCode) (info : Byte) (s : State) :
    (raiseError x info s).accWritten = s.accWritten := rfl
@[simp] theorem raiseError_blk (x : ErrCode) (info : Byte) (s : State) :
    (raiseError x info s).blk = s.blk := rfl
@[simp] theorem raiseError_retry (x : ErrCode) (info : Byte) (s : State) :
    (raiseError x info s).retry = s.retry := rfl
@[simp] theorem raiseError_rlen (x : ErrCode) (info : Byte) (s : State) :
    (raiseError x info s).rlen = s.rlen := rfl
@[simp] theorem raiseError_eof (x : ErrCode) (info : Byte) (s : State) :
    (raiseError x info s).eof = s.eof := rfl
@[simp] theorem raiseError_fb (x : ErrCode) (info : Byte) (s : State) :
    (raiseError x info s).fb = s.fb := rfl
@[simp] theorem raiseError_phase (x : ErrCode) (info : Byte) (s : State) :
    (raiseError x info s).phase = .error := rfl
@[simp] theorem raiseError_err (x : ErrCode) (info : Byte) (s : State) :
    (raiseError x info s).err = x := rfl
@[simp] theorem raiseError_errinfo (x : ErrCode) (info : Byte) (s : State) :
    (raiseError x info s).errinfo = if x = .unknownProtocolByte then info else s.errinfo := rfl
@[simp] theorem raiseError_src (x : ErrCode) (info : Byte) (s : State) :
    (raiseError x info s).src = s.src := rfl
@[simp] theorem raiseError_link (x : ErrCode) (info : Byte) (s : State) :
    (raiseError x info s).link = s.link := rfl
@[simp] theorem raiseError_prog (x : ErrCode) (info : Byte) (s : State) :
    (raiseError x info s).prog = s.prog := rfl
@[simp] theorem raiseError_reply (x : ErrCode) (info : Byte) (s : State) :
    (raiseError x info s).reply = some (.status .error x) := rfl
@[simp] theorem raiseError_inputs (x : ErrCode) (info : Byte) (s : State) :
    (raiseError x info s).inputs = s.inputs := rfl
@[simp] theorem raiseError_resetReq (x : ErrCode) (info : Byte) (s : State) :
    (raiseError x info s).resetReq = s.resetReq := rfl
@[simp] theorem raiseError_draws (x : ErrCode) (info : Byte) (s : State) :
    (raiseError x info s).draws = s.draws := rfl

@[simp] theorem countRetry_cfg (s : State) :
    (countRetry s).cfg = s.cfg := rfl
@[simp] theorem countRetry_acc (s : State) :
    (countRetry s).acc = s.acc := rfl
@[simp] theorem countRetry_accWritten (s : State) :
    (countRetry s).accWritten = s.accWritten := rfl
@[simp] theorem countRetry_blk (s : State) :
    (countRetry s).blk = s.blk := rfl
@[simp] theorem countRetry_retry (s : State) :
    (countRetry s).retry = s.retry + 1 := rfl
@[simp] theorem countRetry_rlen (s : State) :
    (countRetry s).rlen = s.rlen := rfl
@[simp] theorem countRetry_eof (s : State) :
    (countRetry s).eof = s.eof := rfl
@[simp] theorem countRetry_fb (s : State) :
    (countRetry s).fb = s.fb := rfl
@[simp] theorem countRetry_phase (s : State) :
    (countRetry s).phase = s.phase := rfl
@[simp] theorem countRetry_err (s : State) :
    (countRetry s).err = s.err := rfl
@[simp] theorem countRetry_errinfo (s : State) :
    (countRetry s).errinfo = s.errinfo := rfl
@[simp] theorem countRetry_src (s : State) :
    (countRetry s).src = s.src := rfl
@[simp] theorem countRetry_link (s : State) :
    (countRetry s).link = s.link := rfl
@[simp] theorem countRetry_prog (s : State) :
    (countRetry s).prog = s.prog := rfl
@[simp] theorem countRetry_reply (s : State) :
    (countRetry s).reply = s.reply := rfl
@[simp] theorem countRetry_inputs (s : State) :
    (countRetry s).inputs = s.inputs := rfl
@[simp] theorem countRetry_resetReq (s : State) :
    (countRetry s).resetReq = s.resetReq := rfl
@[simp] theorem countRetry_draws (s : State) :
    (countRetry s).draws = s.draws := rfl

@[simp] theorem finish_cfg (s : State) :
    (finish s).cfg = s.cfg := rfl
@[simp] theorem finish_acc (s : State) :
    (finish s).acc = s.acc := rfl
@[simp] theorem finish_accWritten (s : State) :
    (finish s).accWritten = s.accWritten := rfl
@[simp] theorem finish_blk (s : State) :
    (finish s).blk = s.blk := rfl
@[simp] theorem finish_retry (s : State) :
    (finish s).retry = s.retry := rfl
@[simp] theorem finish_rlen (s : State) :
    (finish s).rlen = s.rlen := rfl
@[simp] theorem finish_eof (s : State) :
    (finish s).eof = s.eof := rfl
@[simp] theorem finish_fb (s : State) :
    (finish s).fb = s.fb := rfl
@[simp] theorem finish_phase (s : State) :
    (finish s).phase = .done := rfl
@[simp] theorem finish_err (s : State) :
    (finish s).err = s.err := rfl
@[simp] theorem finish_errinfo (s : State) :
    (finish s).errinfo = s.errinfo := rfl
@[simp] theorem finish_src (s : State) :
    (finish s).src = s.src := rfl
@[simp] theorem finish_link (s : State) :
    (finish s).link = s.link := rfl
@[simp] theorem finish_prog (s : State) :
    (finish s).prog = s.prog := rfl
@[simp] theorem finish_reply (s : State) :
    (finish s).reply = some (.status .done s.err) := rfl
@[simp] theorem finish_inputs (s : State) :
    (finish s).inputs = s.inputs := rfl
@[simp] theorem finish_resetReq (s : State) :
    (finish s).resetReq = s.resetReq := rfl
@[simp] theorem finish_draws (s : State) :
    (finish s).draws = s.draws := rfl

@[simp] theorem startTransfer_cfg (img : List Byte) (s : State) :
    (startTransfer img s).cfg = s.cfg := rfl
@[simp] theorem startTransfer_acc (img : List Byte) (s : State) :
    (startTransfer img s).acc = s.acc := rfl
@[simp] theorem startTransfer_accWritten (img : List Byte) (s : State) :
    (startTransfer img s).accWritten = s.accWritten := rfl
@[simp] theorem startTransfer_blk (img : List Byte) (s : State) :
    (startTransfer img s).blk = 0x01 := rfl
@[simp] theorem startTransfer_retry (img : List Byte) (s : State) :
    (startTransfer img s).retry = 0 := rfl
@[simp] theorem startTransfer_rlen (img : List Byte) (s : State) :
    (startTransfer img s).rlen = s.rlen := rfl
@[simp] theorem startTransfer_eof (img : List Byte) (s : State) :
    (startTransfer img s).eof = false := rfl
@[simp] theorem startTransfer_fb (img : List Byte) (s : State) :
    (startTransfer img s).fb = s.fb := rfl
@[simp] theorem startTransfer_phase (img : List Byte) (s : State) :
    (startTransfer img s).phase = .build := rfl
@[simp] theorem startTransfer_err (img : List Byte) (s : State) :
    (startTransfer img s).err = .none := rfl
@[simp] theorem startTransfer_errinfo (img : List Byte) (s : State) :
    (startTransfer img s).errinfo = s.errinfo := rfl
@[simp] theorem startTransfer_src (img : List Byte) (s : State) :
    (startTransfer img s).src = { s.src with img := img, pos := 0 } := rfl
@[simp] theorem startTransfer_link (img : List Byte) (s : State) :
    (startTransfer img s).link = s.link := rfl
@[simp] theorem startTransfer_prog (img : List Byte) (s : State) :
    (startTransfer img s).prog = [] := rfl
@[simp] theorem startTransfer_reply (img : List Byte) (s : State) :
    (startTransfer img s).reply = none := rfl
@[simp] theorem startTransfer_inputs (img : List Byte) (s : State) :
    (startTransfer img s).inputs = s.inputs := rfl
@[simp] theorem startTransfer_resetReq (img : List Byte) (s : State) :
    (startTransfer img s).resetReq = s.resetReq := rfl
@[simp] theorem startTransfer_draws (img : List Byte) (s : State) :
    (startTransfer img s).draws = s.draws := rfl

@[simp] theorem arriveBytes_cfg (bytes : List Byte) (s : State) :
    (arriveBytes bytes s).cfg = s.cfg := rfl
@[simp] theorem arriveBytes_acc (bytes : List Byte) (s : State) :
    (arriveBytes bytes s).acc = s.acc := rfl
@[simp] theorem arriveBytes_accWritten (bytes : List Byte) (s : State) :
    (arriveBytes bytes s).accWritten = s.accWritten := rfl
@[simp] theorem arriveBytes_blk (bytes : List Byte) (s : State) :
    (arriveBytes bytes s).blk = s.blk := rfl
@[simp] theorem arriveBytes_retry (bytes : List Byte) (s : State) :
    (arriveBytes bytes s).retry = s.retry := rfl
@[simp] theorem arriveBytes_rlen (bytes : List Byte) (s : State) :
    (arriveBytes bytes s).rlen = s.rlen := rfl
@[simp] theorem arriveBytes_eof (bytes : List Byte) (s : State) :
    (arriveBytes bytes s).eof = s.eof := rfl
@[simp] theorem arriveBytes_fb (bytes : List Byte) (s : State) :
    (arriveBytes bytes s).fb = s.fb := rfl
@[simp] theorem arriveBytes_phase (bytes : List Byte) (s : State) :
    (arriveBytes bytes s).phase = s.phase := rfl
@[simp] theorem arriveBytes_err (bytes : List Byte) (s : State) :
    (arriveBytes bytes s).err = s.err := rfl
@[simp] theorem arriveBytes_errinfo (bytes : List Byte) (s : State) :
    (arriveBytes bytes s).errinfo = s.errinfo := rfl
@[simp] theorem arriveBytes_src (bytes : List Byte) (s : State) :
    (arriveBytes bytes s).src = s.src := rfl
@[simp] theorem arriveBytes_link (bytes : List Byte) (s : State) :
    (arriveBytes bytes s).link = s.link.arrive bytes := rfl
@[simp] theorem arriveBytes_prog (bytes : List Byte) (s : State) :
    (arriveBytes bytes s).prog = s.prog := rfl
@[simp] theorem arriveBytes_reply (bytes : List Byte) (s : State) :
    (arriveBytes bytes s).reply = s.reply := rfl
@[simp] theorem arriveBytes_inputs (bytes : List Byte) (s : State) :
    (arriveBytes bytes s).inputs = s.inputs := rfl
@[simp] theorem arriveBytes_resetReq (bytes : List Byte) (s : State) :
    (arriveBytes bytes s).resetReq = s.resetReq := rfl
@[simp] theorem arriveBytes_draws (bytes : List Byte) (s : State) :
    (arriveBytes bytes s).draws = s.draws := rfl

@[simp] theorem spoilFrame_cfg (s : State) :
    (spoilFrame s).cfg = s.cfg := rfl
@[simp] theorem spoilFrame_acc (s : State) :
    (spoilFrame s).acc = Config.freeAcc s.draws := rfl
@[simp] theorem spoilFrame_accWritten (s : State) :
    (spoilFrame s).accWritten = s.accWritten := rfl
@[simp] theorem spoilFrame_blk (s : State) :
    (spoilFrame s).blk = s.blk := rfl
@[simp] theorem spoilFrame_retry (s : State) :
    (spoilFrame s).retry = s.retry := rfl
@[simp] theorem spoilFrame_rlen (s : State) :
    (spoilFrame s).rlen = Config.freeRlen s.draws := rfl
@[simp] theorem spoilFrame_eof (s : State) :
    (spoilFrame s).eof = Config.freeEof s.draws := rfl
@[simp] theorem spoilFrame_fb (s : State) :
    (spoilFrame s).fb = cells 0 ((List.range (frameLen s.cfg.mode)).map (Config.freeFrameByte s.draws)) := rfl
@[simp] theorem spoilFrame_phase (s : State) :
    (spoilFrame s).phase = s.phase := rfl
@[simp] theorem spoilFrame_err (s : State) :
    (spoilFrame s).err = s.err := rfl
@[simp] theorem spoilFrame_errinfo (s : State) :
    (spoilFrame s).errinfo = s.errinfo := rfl
@[simp] theorem spoilFrame_src (s : State) :
    (spoilFrame s).src = s.src := rfl
@[simp] theorem spoilFrame_link (s : State) :
    (spoilFrame s).link = s.link := rfl
@[simp] theorem spoilFrame_prog (s : State) :
    (spoilFrame s).prog = s.prog := rfl
@[simp] theorem spoilFrame_reply (s : State) :
    (spoilFrame s).reply = s.reply := rfl
@[simp] theorem spoilFrame_inputs (s : State) :
    (spoilFrame s).inputs = s.inputs := rfl
@[simp] theorem spoilFrame_resetReq (s : State) :
    (spoilFrame s).resetReq = s.resetReq := rfl
@[simp] theorem spoilFrame_draws (s : State) :
    (spoilFrame s).draws = s.draws + 1 := rfl

@[simp] theorem hardwareReset_cfg (s : State) :
    (hardwareReset s).cfg = s.cfg := rfl
@[simp] theorem hardwareReset_acc (s : State) :
    (hardwareReset s).acc = Config.freeAcc s.draws := rfl
@[simp] theorem hardwareReset_accWritten (s : State) :
    (hardwareReset s).accWritten = false := rfl
@[simp] theorem hardwareReset_blk (s : State) :
    (hardwareReset s).blk = Config.freeBlk s.draws := rfl
@[simp] theorem hardwareReset_retry (s : State) :
    (hardwareReset s).retry = Config.freeRetry s.draws := rfl
@[simp] theorem hardwareReset_rlen (s : State) :
    (hardwareReset s).rlen = Config.freeRlen s.draws := rfl
@[simp] theorem hardwareReset_eof (s : State) :
    (hardwareReset s).eof = Config.freeEof s.draws := rfl
@[simp] theorem hardwareReset_fb (s : State) :
    (hardwareReset s).fb = [] := rfl
@[simp] theorem hardwareReset_phase (s : State) :
    (hardwareReset s).phase = .idle := rfl
@[simp] theorem hardwareReset_err (s : State) :
    (hardwareReset s).err = .none := rfl
@[simp] theorem hardwareReset_errinfo (s : State) :
    (hardwareReset s).errinfo = Config.freeErrInfo s.draws := rfl
@[simp] theorem hardwareReset_src (s : State) :
    (hardwareReset s).src = s.src := rfl
@[simp] theorem hardwareReset_link (s : State) :
    (hardwareReset s).link = { s.link with txLog := [] } := rfl
@[simp] theorem hardwareReset_prog (s : State) :
    (hardwareReset s).prog = [] := rfl
@[simp] theorem hardwareReset_reply (s : State) :
    (hardwareReset s).reply = none := rfl
@[simp] theorem hardwareReset_inputs (s : State) :
    (hardwareReset s).inputs = s.inputs := rfl
@[simp] theorem hardwareReset_resetReq (s : State) :
    (hardwareReset s).resetReq = false := rfl
@[simp] theorem hardwareReset_draws (s : State) :
    (hardwareReset s).draws = s.draws + 1 := rfl

@[simp] theorem Link.arrive_rxbuf (bytes : List Byte) (l : Link) :
    (Link.arrive bytes l).rxbuf = l.rxbuf ++ bytes := rfl
@[simp] theorem Link.arrive_txLog (bytes : List Byte) (l : Link) :
    (Link.arrive bytes l).txLog = l.txLog := rfl
@[simp] theorem Link.arrive_txStream (bytes : List Byte) (l : Link) :
    (Link.arrive bytes l).txStream = l.txStream := rfl
@[simp] theorem Link.arrive_txFlushed (bytes : List Byte) (l : Link) :
    (Link.arrive bytes l).txFlushed = l.txFlushed := rfl
@[simp] theorem Link.arrive_readTimeout (bytes : List Byte) (l : Link) :
    (Link.arrive bytes l).readTimeout = l.readTimeout := rfl
@[simp] theorem Link.arrive_baudRate (bytes : List Byte) (l : Link) :
    (Link.arrive bytes l).baudRate = l.baudRate := rfl
@[simp] theorem Link.arrive_turns (bytes : List Byte) (l : Link) :
    (Link.arrive bytes l).turns = l.turns := rfl
@[simp] theorem Link.arrive_draws (bytes : List Byte) (l : Link) :
    (Link.arrive bytes l).draws = l.draws := rfl

@[simp] theorem Link.log_rxbuf (e : LinkEvent) (l : Link) :
    (Link.log e l).rxbuf = l.rxbuf := rfl
@[simp] theorem Link.log_txLog (e : LinkEvent) (l : Link) :
    (Link.log e l).txLog = l.txLog ++ [e] := rfl
@[simp] theorem Link.log_txStream (e : LinkEvent) (l : Link) :
    (Link.log e l).txStream = l.txStream := rfl
@[simp] theorem Link.log_txFlushed (e : LinkEvent) (l : Link) :
    (Link.log e l).txFlushed = l.txFlushed := rfl
@[simp] theorem Link.log_readTimeout (e : LinkEvent) (l : Link) :
    (Link.log e l).readTimeout = l.readTimeout := rfl
@[simp] theorem Link.log_baudRate (e : LinkEvent) (l : Link) :
    (Link.log e l).baudRate = l.baudRate := rfl
@[simp] theorem Link.log_turns (e : LinkEvent) (l : Link) :
    (Link.log e l).turns = l.turns := rfl
@[simp] theorem Link.log_draws (e : LinkEvent) (l : Link) :
    (Link.log e l).draws = l.draws := rfl

@[simp] theorem Link.answering_rxbuf (bytes : List Byte) (l : Link) :
    (Link.answering bytes l).rxbuf = l.rxbuf := rfl
@[simp] theorem Link.answering_txLog (bytes : List Byte) (l : Link) :
    (Link.answering bytes l).txLog = l.txLog := rfl
@[simp] theorem Link.answering_txStream (bytes : List Byte) (l : Link) :
    (Link.answering bytes l).txStream = l.txStream := rfl
@[simp] theorem Link.answering_txFlushed (bytes : List Byte) (l : Link) :
    (Link.answering bytes l).txFlushed = l.txFlushed := rfl
@[simp] theorem Link.answering_readTimeout (bytes : List Byte) (l : Link) :
    (Link.answering bytes l).readTimeout = l.readTimeout := rfl
@[simp] theorem Link.answering_baudRate (bytes : List Byte) (l : Link) :
    (Link.answering bytes l).baudRate = l.baudRate := rfl
@[simp] theorem Link.answering_turns (bytes : List Byte) (l : Link) :
    (Link.answering bytes l).turns = ⟨[], .ok⟩ :: ⟨[], .ok⟩ :: ⟨[], .ok⟩ :: ⟨bytes, .ok⟩ :: l.turns := rfl
@[simp] theorem Link.answering_draws (bytes : List Byte) (l : Link) :
    (Link.answering bytes l).draws = l.draws := rfl

@[simp] theorem advance_cfg (s : State) : (advance s).cfg = s.cfg := by
  unfold advance; cases s.eof <;> rfl
@[simp] theorem advance_acc (s : State) : (advance s).acc = s.acc := by
  unfold advance; cases s.eof <;> rfl
@[simp] theorem advance_accWritten (s : State) : (advance s).accWritten = s.accWritten := by
  unfold advance; cases s.eof <;> rfl
@[simp] theorem advance_blk (s : State) : (advance s).blk = s.blk + 1 := by
  unfold advance; cases s.eof <;> rfl
@[simp] theorem advance_retry (s : State) : (advance s).retry = if s.eof then 0 else s.retry := by
  unfold advance; cases s.eof <;> rfl
@[simp] theorem advance_rlen (s : State) : (advance s).rlen = s.rlen := by
  unfold advance; cases s.eof <;> rfl
@[simp] theorem advance_eof (s : State) : (advance s).eof = s.eof := by
  unfold advance; cases s.eof <;> rfl
@[simp] theorem advance_fb (s : State) : (advance s).fb = s.fb := by
  unfold advance; cases s.eof <;> rfl
@[simp] theorem advance_phase (s : State) : (advance s).phase = if s.eof then .eot else .build := by
  unfold advance; cases s.eof <;> rfl
@[simp] theorem advance_err (s : State) : (advance s).err = s.err := by
  unfold advance; cases s.eof <;> rfl
@[simp] theorem advance_errinfo (s : State) : (advance s).errinfo = s.errinfo := by
  unfold advance; cases s.eof <;> rfl
@[simp] theorem advance_src (s : State) : (advance s).src = s.src := by
  unfold advance; cases s.eof <;> rfl
@[simp] theorem advance_link (s : State) : (advance s).link = s.link := by
  unfold advance; cases s.eof <;> rfl
@[simp] theorem advance_prog (s : State) : (advance s).prog = s.prog ++ [s.blk] := by
  unfold advance; cases s.eof <;> rfl
@[simp] theorem advance_reply (s : State) : (advance s).reply = s.reply := by
  unfold advance; cases s.eof <;> rfl
@[simp] theorem advance_inputs (s : State) : (advance s).inputs = s.inputs := by
  unfold advance; cases s.eof <;> rfl
@[simp] theorem advance_resetReq (s : State) : (advance s).resetReq = s.resetReq := by
  unfold advance; cases s.eof <;> rfl
@[simp] theorem advance_draws (s : State) : (advance s).draws = s.draws := by
  unfold advance; cases s.eof <;> rfl

end Sys2Proof.Machine
end

