-- ==== Sys2Proof/Laws/Ops.lean ====
section
/-! SUPPORT. What each shared operation can do, said once: the sequencing of outcomes, the frame and the
frame buffer, the image source, the link primitives, the micro-operations and their runs. -/

namespace Sys2Proof.Machine

/-! Sequencing. -/

section Sequencing
variable {α β : Type}

@[simp] theorem andThen_next (a : α) (k : α → Host.Outcome β Fault Refusal) :
    andThen (.next a) k = k a := rfl
@[simp] theorem andThen_fault (f : Fault) (k : α → Host.Outcome β Fault Refusal) :
    andThen (.fault f) k = .fault f := rfl
@[simp] theorem andThen_refused (r : Refusal) (k : α → Host.Outcome β Fault Refusal) :
    andThen (.refused r) k = .refused r := rfl

/-- A sequence answers a next value exactly when both parts do. -/
theorem andThen_eq_next {o : Host.Outcome α Fault Refusal} {k : α → Host.Outcome β Fault Refusal} {b : β} :
    andThen o k = .next b ↔ ∃ a, o = .next a ∧ k a = .next b := by
  cases o <;> simp

/-- A sequence faults exactly when one of its parts does. -/
theorem andThen_eq_fault {o : Host.Outcome α Fault Refusal} {k : α → Host.Outcome β Fault Refusal}
    {f : Fault} : andThen o k = .fault f ↔ o = .fault f ∨ ∃ a, o = .next a ∧ k a = .fault f := by
  cases o <;> simp

/-- A sequence is refused exactly when one of its parts is. -/
theorem andThen_eq_refused {o : Host.Outcome α Fault Refusal} {k : α → Host.Outcome β Fault Refusal}
    {r : Refusal} : andThen o k = .refused r ↔ o = .refused r ∨ ∃ a, o = .next a ∧ k a = .refused r := by
  cases o <;> simp

end Sequencing

theorem hostOperation_of_idle {s : State} (h : s.phase.running = false)
    (k : Host.Outcome State Fault Refusal) : hostOperation s k = k := by simp [hostOperation, h]

theorem hostOperation_of_running {s : State} (h : s.phase.running = true)
    (k : Host.Outcome State Fault Refusal) : hostOperation s k = .refused .engineRunning := by
  simp [hostOperation, h]

/-- A host operation that answers a next state found the engine not running. -/
theorem hostOperation_eq_next {s t : State} {k : Host.Outcome State Fault Refusal} :
    hostOperation s k = .next t ↔ s.phase.running = false ∧ k = .next t := by
  unfold hostOperation
  cases s.phase.running <;> simp

theorem readAcc_of_written {s : State} (h : s.accWritten = true) : readAcc s = .next s.acc := by
  simp [readAcc, h]

theorem readAcc_of_unwritten {s : State} (h : s.accWritten = false) :
    readAcc s = .refused .accUnwritten := by simp [readAcc, h]

/-! The frame. -/

theorem payloadLen_pos (m : Mode) : 0 < payloadLen m := by cases m <;> decide

theorem payloadOf_length {m : Mode} {chunk : List Byte} (h : chunk.length ≤ payloadLen m) :
    (payloadOf m chunk).length = payloadLen m := by
  simp only [payloadOf, List.length_append, List.length_replicate]
  omega

/-- The chunk comes first in the payload, unchanged. -/
theorem payloadOf_take (m : Mode) (chunk : List Byte) :
    (payloadOf m chunk).take chunk.length = chunk := by simp [payloadOf]

theorem dataUnit_length (magic id cmpl : Byte) (payload : List Byte) (hi lo : Byte) :
    (dataUnit magic id cmpl payload hi lo).length = payload.length + 5 := by simp [dataUnit]

/-- A frame always has the fixed size. -/
theorem frame_length {m : Mode} {chunk : List Byte} (h : chunk.length ≤ payloadLen m) (id : Byte) :
    (frame m chunk id).length = frameLen m := by
  rw [frame, dataUnit_length, payloadOf_length h, frameLen]

/-! The frame buffer. -/

theorem readFrameBytes_ne_fault {s : State} {is : List Nat} (h : ∀ i ∈ is, i < frameLen s.cfg.mode)
    (f : Fault) : readFrameBytes s is ≠ .fault f := by
  induction is with
  | nil => simp [readFrameBytes]
  | cons i is ih =>
    have hi := h i (by simp)
    have ih := ih fun j hj => h j (by simp [hj])
    cases hr : Memory.read s.fb i with
    | none => simp [readFrameBytes, readFrameByte, hi, hr]
    | some v => simpa [readFrameBytes, readFrameByte, hi, hr, andThen_eq_fault] using ih

/-- Reading the frame stays within the frame buffer. -/
theorem readFrame_ne_fault (s : State) (f : Fault) : readFrame s ≠ .fault f :=
  readFrameBytes_ne_fault (fun _ hi => List.mem_range.1 hi) f

theorem readFrameBytes_of_read {s : State} {is : List Nat} {bytes : List Byte}
    (hi : ∀ i ∈ is, i < frameLen s.cfg.mode)
    (h : is.map (Memory.read s.fb) = bytes.map some) : readFrameBytes s is = .next bytes := by
  induction is generalizing bytes with
  | nil =>
    cases bytes with
    | nil => rfl
    | cons b bs => simp at h
  | cons i is ih =>
    cases bytes with
    | nil => simp at h
    | cons b bs =>
      simp only [List.map_cons, List.cons.injEq] at h
      have := ih (fun j hj => hi j (by simp [hj])) h.2
      simp [readFrameBytes, readFrameByte, hi i (by simp), h.1, this]

/-- A frame buffer that lists a frame's bytes reads as that frame. -/
theorem readFrame_of_cells {s : State} {bytes : List Byte} (h : s.fb = cells 0 bytes)
    (hl : bytes.length = frameLen s.cfg.mode) : readFrame s = .next bytes := by
  refine readFrameBytes_of_read (fun _ hi => List.mem_range.1 hi) ?_
  rw [h, ← hl]
  apply List.ext_getElem
  · simp
  · intro i h1 h2
    simp at h1
    simp [cells_read, h1]

theorem readFrameBytes_of_unwritten {s : State} {is js : List Nat} {j : Nat}
    (hi : ∀ i ∈ is, i < frameLen s.cfg.mode ∧ Memory.read s.fb i ≠ none) (hj : j < frameLen s.cfg.mode)
    (hr : Memory.read s.fb j = none) :
    readFrameBytes s (is ++ j :: js) = .refused (.frameByteUnwritten j) := by
  induction is with
  | nil => simp [readFrameBytes, readFrameByte, hj, hr]
  | cons i is ih =>
    have ih := ih fun k hk => hi k (by simp [hk])
    obtain ⟨h, hv⟩ := hi i (by simp)
    obtain ⟨v, hv⟩ := Option.ne_none_iff_exists'.1 hv
    simp [readFrameBytes, readFrameByte, h, hv, ih]

/-- The first byte that nothing has written refuses the reading of the frame. -/
theorem readFrame_of_unwritten {s : State} {j : Nat} (hj : j < frameLen s.cfg.mode)
    (hr : Memory.read s.fb j = none) (hi : ∀ i, i < j → Memory.read s.fb i ≠ none) :
    readFrame s = .refused (.frameByteUnwritten j) := by
  obtain ⟨k, hk⟩ : ∃ k, frameLen s.cfg.mode = j + (k + 1) := ⟨frameLen s.cfg.mode - j - 1, by omega⟩
  unfold readFrame
  rw [hk, List.range_add, List.range_succ_eq_map, List.map_cons]
  exact readFrameBytes_of_unwritten (fun i h => by have := List.mem_range.1 h; exact ⟨by omega, hi i this⟩) hj hr

/-- What reading the frame depends on. -/
theorem readFrame_congr {s t : State} (hc : t.cfg = s.cfg) (hf : t.fb = s.fb) :
    readFrame t = readFrame s := by
  unfold readFrame
  rw [hc]
  induction List.range (frameLen s.cfg.mode) with
  | nil => rfl
  | cons i is ih => simp only [readFrameBytes, readFrameByte, hc, hf, ih]

/-- A frame written from index 0 fits, and only it stays listed. -/
theorem writeFrameBytes_frame (s : State) {bytes : List Byte} (h : bytes.length = frameLen s.cfg.mode) :
    writeFrameBytes 0 bytes s = .next { s with fb := s.fb.writeRange 0 bytes } := by
  simp [writeFrameBytes, h]

/-! The image source. -/

@[simp] theorem Source.takeTurn_img (src : Source) : src.takeTurn.2.img = src.img := by
  unfold Source.takeTurn; cases src.turns <;> rfl
@[simp] theorem Source.takeTurn_pos (src : Source) : src.takeTurn.2.pos = src.pos := by
  unfold Source.takeTurn; cases src.turns <;> rfl

/-- A source read that delivers: exactly min(n, remaining) bytes, and the cursor past them. -/
theorem Source.read_some {n : Nat} {src src' : Source} {chunk : List Byte}
    (h : src.read n = (some chunk, src')) :
    chunk = (src.img.drop src.pos).take n ∧ src'.img = src.img ∧ src'.pos = src.pos + chunk.length := by
  unfold Source.read at h
  have hi := src.takeTurn_img
  have hp := src.takeTurn_pos
  rcases ht : src.takeTurn with ⟨r, src1⟩
  rw [ht] at h hi hp
  cases r <;> simp at h
  obtain ⟨rfl, rfl⟩ := h
  simp at hi hp
  simp [hi, hp]

/-- A source read that fails: the image stays and the cursor stays within it. -/
theorem Source.read_none {n : Nat} {src src' : Source} (h : src.read n = (none, src')) :
    src'.img = src.img ∧ src'.pos ≤ src.img.length := by
  unfold Source.read at h
  have hi := src.takeTurn_img
  rcases ht : src.takeTurn with ⟨r, src1⟩
  rw [ht] at h hi
  cases r <;> simp at h
  subst h
  simp at hi
  simp only [hi, true_and]
  exact Nat.le_of_lt_succ (Nat.mod_lt _ (Nat.succ_pos _))

/-- A scripted successful read. -/
theorem Source.read_of_ok {n : Nat} {src : Source} {ts : List IoResult} (h : src.turns = .ok :: ts) :
    src.read n = (some ((src.img.drop src.pos).take n),
      { src with turns := ts, pos := src.pos + ((src.img.drop src.pos).take n).length }) := by
  simp [Source.read, Source.takeTurn, h]

/-- No read returns more than was asked for. -/
theorem Source.read_length {n : Nat} {src src' : Source} {chunk : List Byte}
    (h : src.read n = (some chunk, src')) : chunk.length ≤ n := by
  obtain ⟨rfl, -, -⟩ := Source.read_some h
  simp only [List.length_take]
  omega

/-! The link primitives: each one's effect but for what the peer does to RXBUF, the script and the count. -/

/-- A peer's turn touches RXBUF, the script and the count of free values only. -/
theorem Link.takeTurn_frame (l : Link) :
    l.takeTurn.2.txLog = l.txLog ∧ l.takeTurn.2.txStream = l.txStream ∧
    l.takeTurn.2.txFlushed = l.txFlushed ∧ l.takeTurn.2.readTimeout = l.readTimeout ∧
    l.takeTurn.2.baudRate = l.baudRate := by
  unfold Link.takeTurn; cases l.turns <;> simp

/-- LinkClearRx. -/
theorem Link.clearRx_spec (l : Link) :
    l.clearRx.2.txLog = l.txLog ++ [.clearRx l.clearRx.1] ∧ l.clearRx.2.txStream = l.txStream ∧
    l.clearRx.2.txFlushed = l.txFlushed ∧ l.clearRx.2.readTimeout = l.readTimeout ∧
    l.clearRx.2.baudRate = l.baudRate ∧ (l.clearRx.1 = .ok → l.clearRx.2.rxbuf = []) := by
  obtain ⟨h1, h2, h3, h4, h5⟩ := l.takeTurn_frame
  unfold Link.clearRx
  rcases ht : l.takeTurn with ⟨r, m⟩
  rw [ht] at h1 h2 h3 h4 h5
  cases r <;> simp_all

/-- LinkWrite: all the bytes on Ok; on IoError a beginning of them. -/
theorem Link.write_spec (bytes : List Byte) (l : Link) :
    (l.write bytes).2.txLog = l.txLog ++ [.write bytes (l.write bytes).1] ∧
    (∃ k, (l.write bytes).2.txStream = l.txStream ++ bytes.take k) ∧
    ((l.write bytes).1 = .ok → (l.write bytes).2.txStream = l.txStream ++ bytes) ∧
    (l.write bytes).2.txFlushed = l.txFlushed ∧ (l.write bytes).2.readTimeout = l.readTimeout ∧
    (l.write bytes).2.baudRate = l.baudRate := by
  obtain ⟨h1, h2, h3, h4, h5⟩ := l.takeTurn_frame
  unfold Link.write
  rcases ht : l.takeTurn with ⟨r, m⟩
  rw [ht] at h1 h2 h3 h4 h5
  cases r
  · refine ⟨by simp_all, ⟨bytes.length, by simp_all⟩, by simp_all, by simp_all, by simp_all, by simp_all⟩
  · refine ⟨by simp_all, ⟨Config.freeCount m.draws, by simp_all⟩, by simp, by simp_all, by simp_all,
      by simp_all⟩

/-- LinkFlush: everything written is handed over on Ok; on IoError no less than before. -/
theorem Link.flush_spec (l : Link) :
    l.flush.2.txLog = l.txLog ++ [.flush l.flush.1] ∧ l.flush.2.txStream = l.txStream ∧
    (l.flush.1 = .ok → l.flush.2.txFlushed = l.txStream.length) ∧
    (l.txFlushed ≤ l.txStream.length →
      l.txFlushed ≤ l.flush.2.txFlushed ∧ l.flush.2.txFlushed ≤ l.txStream.length) ∧
    l.flush.2.readTimeout = l.readTimeout ∧ l.flush.2.baudRate = l.baudRate := by
  obtain ⟨h1, h2, h3, h4, h5⟩ := l.takeTurn_frame
  unfold Link.flush
  rcases ht : l.takeTurn with ⟨r, m⟩
  rw [ht] at h1 h2 h3 h4 h5
  cases r
  · refine ⟨by simp_all, by simp_all, by simp_all, fun h => ?_, by simp_all, by simp_all⟩
    simp_all
  · refine ⟨by simp_all, by simp_all, by simp, fun h => ?_, by simp_all, by simp_all⟩
    have := Nat.mod_lt (Config.freeCount m.draws) (Nat.succ_pos (m.txStream.length - m.txFlushed))
    simp only [Link.log_txFlushed]
    simp only at h2 h3
    rw [h2, h3] at this ⊢
    simp only [Nat.succ_eq_add_one] at this
    omega

/-- LinkReadByte: it neither writes nor flushes. -/
theorem Link.readByte_spec (l : Link) :
    l.readByte.2.txLog = l.txLog ++ [.read l.readByte.1] ∧ l.readByte.2.txStream = l.txStream ∧
    l.readByte.2.txFlushed = l.txFlushed ∧ l.readByte.2.readTimeout = l.readTimeout ∧
    l.readByte.2.baudRate = l.baudRate := by
  obtain ⟨h1, h2, h3, h4, h5⟩ := l.takeTurn_frame
  unfold Link.readByte
  rcases ht : l.takeTurn with ⟨r, m⟩
  rw [ht] at h1 h2 h3 h4 h5
  cases r
  · cases hr : m.rxbuf <;> simp_all
  · simp_all

/-- The four ways an exchange goes, in the order of its primitives: the first failure ends it. -/
theorem Link.exchange_paths (unit : List Byte) (l : Link) :
    (l.clearRx.1 = .ioError ∧ l.exchange unit = (.ioError, l.clearRx.2)) ∨
    (l.clearRx.1 = .ok ∧ (l.clearRx.2.write unit).1 = .ioError ∧
      l.exchange unit = (.ioError, (l.clearRx.2.write unit).2)) ∨
    (l.clearRx.1 = .ok ∧ (l.clearRx.2.write unit).1 = .ok ∧
      (l.clearRx.2.write unit).2.flush.1 = .ioError ∧
      l.exchange unit = (.ioError, (l.clearRx.2.write unit).2.flush.2)) ∨
    (l.clearRx.1 = .ok ∧ (l.clearRx.2.write unit).1 = .ok ∧ (l.clearRx.2.write unit).2.flush.1 = .ok ∧
      l.exchange unit = (l.clearRx.2.write unit).2.flush.2.readByte) := by
  unfold Link.exchange
  rcases h1 : l.clearRx with ⟨r1, l1⟩
  cases r1
  · rcases h2 : l1.write unit with ⟨r2, l2⟩
    cases r2
    · rcases h3 : l2.flush with ⟨r3, l3⟩
      cases r3 <;> simp [h2, h3]
    · simp [h2]
  · simp

/-! What the link's histories gain. -/

theorem txBytes_append (a b : List LinkEvent) : txBytes (a ++ b) = txBytes a ++ txBytes b := by
  induction a with
  | nil => rfl
  | cons e a ih => cases e <;> simp [txBytes, ih]

theorem Link.Extends.of_eq {l m : Link} (hl : m.txLog = l.txLog) (hs : m.txStream = l.txStream) :
    l.Extends m := ⟨[], [], by simp [hl], by simp [hs], .slnil⟩

theorem Link.Extends.trans {l m n : Link} (h : l.Extends m) (k : m.Extends n) : l.Extends n := by
  obtain ⟨e, b, h1, h2, h3⟩ := h
  obtain ⟨e', b', k1, k2, k3⟩ := k
  exact ⟨e ++ e', b ++ b', by simp [k1, h1], by simp [k2, h2], by rw [txBytes_append]; exact h3.append k3⟩

/-- An exchange adds to the histories at their ends. -/
theorem Link.exchange_extends (unit : List Byte) (l : Link) : l.Extends (l.exchange unit).2 := by
  have hc : l.Extends l.clearRx.2 :=
    ⟨[.clearRx l.clearRx.1], [], l.clearRx_spec.1, by simp [l.clearRx_spec.2.1], List.nil_sublist _⟩
  have hw (m : Link) : m.Extends (m.write unit).2 := by
    obtain ⟨h1, ⟨k, hk⟩, -⟩ := m.write_spec unit
    exact ⟨_, _, h1, hk, by simpa [txBytes] using List.take_sublist k unit⟩
  have hf (m : Link) : m.Extends m.flush.2 :=
    ⟨[.flush m.flush.1], [], m.flush_spec.1, by simp [m.flush_spec.2.1], List.nil_sublist _⟩
  have hr (m : Link) : m.Extends m.readByte.2 :=
    ⟨[.read m.readByte.1], [], m.readByte_spec.1, by simp [m.readByte_spec.2.1], List.nil_sublist _⟩
  rcases l.exchange_paths unit with ⟨-, h⟩ | ⟨-, -, h⟩ | ⟨-, -, -, h⟩ | ⟨-, -, -, h⟩ <;> rw [h]
  · exact hc
  · exact hc.trans (hw _)
  · exact (hc.trans (hw _)).trans (hf _)
  · exact ((hc.trans (hw _)).trans (hf _)).trans (hr _)

/-- A scripted answer is what the exchange reads, whatever RXBUF held. -/
theorem Link.exchange_answering (unit bytes : List Byte) (b : Byte) (l : Link) :
    (l.answering (b :: bytes)).exchange unit = (.byte b, l.answered unit b bytes) := by
  simp [Link.exchange, Link.clearRx, Link.write, Link.flush, Link.readByte, Link.takeTurn, Link.answering,
    Link.answered, exchangeEvents, Link.arrive, Link.log]

/-! The answers: what they never touch. -/

@[simp] theorem frameResponse_cfg (r : Response) (s : State) : (frameResponse r s).cfg = s.cfg := by
  cases r <;> simp [frameResponse, apply_ite State.cfg]
@[simp] theorem frameResponse_acc (r : Response) (s : State) : (frameResponse r s).acc = s.acc := by
  cases r <;> simp [frameResponse, apply_ite State.acc]
@[simp] theorem frameResponse_accWritten (r : Response) (s : State) : (frameResponse r s).accWritten = s.accWritten := by
  cases r <;> simp [frameResponse, apply_ite State.accWritten]
@[simp] theorem frameResponse_rlen (r : Response) (s : State) : (frameResponse r s).rlen = s.rlen := by
  cases r <;> simp [frameResponse, apply_ite State.rlen]
@[simp] theorem frameResponse_eof (r : Response) (s : State) : (frameResponse r s).eof = s.eof := by
  cases r <;> simp [frameResponse, apply_ite State.eof]
@[simp] theorem frameResponse_fb (r : Response) (s : State) : (frameResponse r s).fb = s.fb := by
  cases r <;> simp [frameResponse, apply_ite State.fb]
@[simp] theorem frameResponse_src (r : Response) (s : State) : (frameResponse r s).src = s.src := by
  cases r <;> simp [frameResponse, apply_ite State.src]
@[simp] theorem frameResponse_link (r : Response) (s : State) : (frameResponse r s).link = s.link := by
  cases r <;> simp [frameResponse, apply_ite State.link]
@[simp] theorem frameResponse_inputs (r : Response) (s : State) : (frameResponse r s).inputs = s.inputs := by
  cases r <;> simp [frameResponse, apply_ite State.inputs]
@[simp] theorem frameResponse_resetReq (r : Response) (s : State) : (frameResponse r s).resetReq = s.resetReq := by
  cases r <;> simp [frameResponse, apply_ite State.resetReq]
@[simp] theorem frameResponse_draws (r : Response) (s : State) : (frameResponse r s).draws = s.draws := by
  cases r <;> simp [frameResponse, apply_ite State.draws]

@[simp] theorem eotResponse_cfg (r : Response) (s : State) : (eotResponse r s).cfg = s.cfg := by
  cases r <;> simp [eotResponse, apply_ite State.cfg]
@[simp] theorem eotResponse_acc (r : Response) (s : State) : (eotResponse r s).acc = s.acc := by
  cases r <;> simp [eotResponse, apply_ite State.acc]
@[simp] theorem eotResponse_accWritten (r : Response) (s : State) : (eotResponse r s).accWritten = s.accWritten := by
  cases r <;> simp [eotResponse, apply_ite State.accWritten]
@[simp] theorem eotResponse_blk (r : Response) (s : State) : (eotResponse r s).blk = s.blk := by
  cases r <;> simp [eotResponse, apply_ite State.blk]
@[simp] theorem eotResponse_rlen (r : Response) (s : State) : (eotResponse r s).rlen = s.rlen := by
  cases r <;> simp [eotResponse, apply_ite State.rlen]
@[simp] theorem eotResponse_eof (r : Response) (s : State) : (eotResponse r s).eof = s.eof := by
  cases r <;> simp [eotResponse, apply_ite State.eof]
@[simp] theorem eotResponse_fb (r : Response) (s : State) : (eotResponse r s).fb = s.fb := by
  cases r <;> simp [eotResponse, apply_ite State.fb]
@[simp] theorem eotResponse_errinfo (r : Response) (s : State) : (eotResponse r s).errinfo = s.errinfo := by
  cases r <;> simp [eotResponse, apply_ite State.errinfo]
@[simp] theorem eotResponse_src (r : Response) (s : State) : (eotResponse r s).src = s.src := by
  cases r <;> simp [eotResponse, apply_ite State.src]
@[simp] theorem eotResponse_link (r : Response) (s : State) : (eotResponse r s).link = s.link := by
  cases r <;> simp [eotResponse, apply_ite State.link]
@[simp] theorem eotResponse_prog (r : Response) (s : State) : (eotResponse r s).prog = s.prog := by
  cases r <;> simp [eotResponse, apply_ite State.prog]
@[simp] theorem eotResponse_inputs (r : Response) (s : State) : (eotResponse r s).inputs = s.inputs := by
  cases r <;> simp [eotResponse, apply_ite State.inputs]
@[simp] theorem eotResponse_resetReq (r : Response) (s : State) : (eotResponse r s).resetReq = s.resetReq := by
  cases r <;> simp [eotResponse, apply_ite State.resetReq]
@[simp] theorem eotResponse_draws (r : Response) (s : State) : (eotResponse r s).draws = s.draws := by
  cases r <;> simp [eotResponse, apply_ite State.draws]

@[simp] theorem frameAnswer_cfg (r : ReadResult) (s : State) : (frameAnswer r s).cfg = s.cfg := by
  cases r <;> simp [frameAnswer]
@[simp] theorem frameAnswer_acc (r : ReadResult) (s : State) : (frameAnswer r s).acc = s.acc := by
  cases r <;> simp [frameAnswer]
@[simp] theorem frameAnswer_accWritten (r : ReadResult) (s : State) : (frameAnswer r s).accWritten = s.accWritten := by
  cases r <;> simp [frameAnswer]
@[simp] theorem frameAnswer_rlen (r : ReadResult) (s : State) : (frameAnswer r s).rlen = s.rlen := by
  cases r <;> simp [frameAnswer]
@[simp] theorem frameAnswer_eof (r : ReadResult) (s : State) : (frameAnswer r s).eof = s.eof := by
  cases r <;> simp [frameAnswer]
@[simp] theorem frameAnswer_fb (r : ReadResult) (s : State) : (frameAnswer r s).fb = s.fb := by
  cases r <;> simp [frameAnswer]
@[simp] theorem frameAnswer_src (r : ReadResult) (s : State) : (frameAnswer r s).src = s.src := by
  cases r <;> simp [frameAnswer]
@[simp] theorem frameAnswer_link (r : ReadResult) (s : State) : (frameAnswer r s).link = s.link := by
  cases r <;> simp [frameAnswer]
@[simp] theorem frameAnswer_inputs (r : ReadResult) (s : State) : (frameAnswer r s).inputs = s.inputs := by
  cases r <;> simp [frameAnswer]
@[simp] theorem frameAnswer_resetReq (r : ReadResult) (s : State) : (frameAnswer r s).resetReq = s.resetReq := by
  cases r <;> simp [frameAnswer]
@[simp] theorem frameAnswer_draws (r : ReadResult) (s : State) : (frameAnswer r s).draws = s.draws := by
  cases r <;> simp [frameAnswer]

@[simp] theorem eotAnswer_cfg (r : ReadResult) (s : State) : (eotAnswer r s).cfg = s.cfg := by
  cases r <;> simp [eotAnswer]
@[simp] theorem eotAnswer_acc (r : ReadResult) (s : State) : (eotAnswer r s).acc = s.acc := by
  cases r <;> simp [eotAnswer]
@[simp] theorem eotAnswer_accWritten (r : ReadResult) (s : State) : (eotAnswer r s).accWritten = s.accWritten := by
  cases r <;> simp [eotAnswer]
@[simp] theorem eotAnswer_blk (r : ReadResult) (s : State) : (eotAnswer r s).blk = s.blk := by
  cases r <;> simp [eotAnswer]
@[simp] theorem eotAnswer_rlen (r : ReadResult) (s : State) : (eotAnswer r s).rlen = s.rlen := by
  cases r <;> simp [eotAnswer]
@[simp] theorem eotAnswer_eof (r : ReadResult) (s : State) : (eotAnswer r s).eof = s.eof := by
  cases r <;> simp [eotAnswer]
@[simp] theorem eotAnswer_fb (r : ReadResult) (s : State) : (eotAnswer r s).fb = s.fb := by
  cases r <;> simp [eotAnswer]
@[simp] theorem eotAnswer_errinfo (r : ReadResult) (s : State) : (eotAnswer r s).errinfo = s.errinfo := by
  cases r <;> simp [eotAnswer]
@[simp] theorem eotAnswer_src (r : ReadResult) (s : State) : (eotAnswer r s).src = s.src := by
  cases r <;> simp [eotAnswer]
@[simp] theorem eotAnswer_link (r : ReadResult) (s : State) : (eotAnswer r s).link = s.link := by
  cases r <;> simp [eotAnswer]
@[simp] theorem eotAnswer_prog (r : ReadResult) (s : State) : (eotAnswer r s).prog = s.prog := by
  cases r <;> simp [eotAnswer]
@[simp] theorem eotAnswer_inputs (r : ReadResult) (s : State) : (eotAnswer r s).inputs = s.inputs := by
  cases r <;> simp [eotAnswer]
@[simp] theorem eotAnswer_resetReq (r : ReadResult) (s : State) : (eotAnswer r s).resetReq = s.resetReq := by
  cases r <;> simp [eotAnswer]
@[simp] theorem eotAnswer_draws (r : ReadResult) (s : State) : (eotAnswer r s).draws = s.draws := by
  cases r <;> simp [eotAnswer]

/-! The micro-operations. -/

/-- FRM.BUILD's actions: it fails with the source, or writes the frame of the chunk. -/
theorem buildFrame_cases (s : State) :
    (∃ src, s.src.read (payloadLen s.cfg.mode) = (none, src) ∧
      buildFrame s = .next (raiseError .sourceIoError 0 (spoilFrame { s with src := src }))) ∨
    (∃ chunk src, s.src.read (payloadLen s.cfg.mode) = (some chunk, src) ∧
      buildFrame s = .next { s with
        fb := s.fb.writeRange 0 (frame s.cfg.mode chunk s.blk)
        src := src
        rlen := BitVec.ofNat 11 chunk.length
        eof := eofFlag s.cfg.mode chunk.length
        acc := crc16 (payloadOf s.cfg.mode chunk)
        accWritten := true
        retry := 0
        phase := .send }) := by
  unfold buildFrame
  rcases h : s.src.read (payloadLen s.cfg.mode) with ⟨_ | chunk, src⟩
  · exact .inl ⟨src, rfl, rfl⟩
  · exact .inr ⟨chunk, src, rfl, by
      simp [writeFrameBytes_frame s (frame_length (Source.read_length h) s.blk)]⟩

/-- FRM.SEND's actions: refused where FB has an unwritten byte, else one exchange of FB and its answer. -/
theorem sendFrame_cases (s : State) :
    (∃ r, readFrame s = .refused r ∧ sendFrame s = .refused r) ∨
    (∃ unit, readFrame s = .next unit ∧
      sendFrame s = .next (frameAnswer (s.link.exchange unit).1
        { s with link := (s.link.exchange unit).2 })) := by
  unfold sendFrame
  cases h : readFrame s with
  | next unit => exact .inr ⟨unit, rfl, rfl⟩
  | fault f => exact absurd h (readFrame_ne_fault s f)
  | refused r => exact .inl ⟨r, rfl, rfl⟩

/-- EOT.SEND's actions: one exchange of the EOT byte and its answer. -/
theorem sendEot_eq (s : State) :
    sendEot s = .next (eotAnswer (s.link.exchange [eotByte]).1
      { s with link := (s.link.exchange [eotByte]).2 }) := rfl

/-- No micro-operation faults. -/
theorem microOperation_ne_fault (s : State) (f : Fault) : microOperation s ≠ .fault f := by
  unfold microOperation
  cases s.phase with
  | build => rcases buildFrame_cases s with ⟨_, _, h⟩ | ⟨_, _, _, h⟩ <;> simp [h]
  | send => rcases sendFrame_cases s with ⟨_, _, h⟩ | ⟨_, _, h⟩ <;> simp [h]
  | eot => simp [sendEot_eq]
  | idle => simp
  | done => simp
  | error => simp

/-- What every micro-operation keeps, a run of them keeps. -/
theorem runUntil_keeps {P : State → Prop} (stop : State → Bool)
    (hP : ∀ s t, P s → microOperation s = .next t → P t) (k : Nat) :
    ∀ s t, P s → runUntil stop k s = .next t → P t := by
  induction k with
  | zero => intro s t hs h; cases h; exact hs
  | succ k ih =>
    intro s t hs h
    unfold runUntil at h
    split at h
    · cases h; exact hs
    · obtain ⟨u, hu, ht⟩ := andThen_eq_next.1 h
      exact ih u t (hP s u hs hu) ht

/-- A run of micro-operations never faults. -/
theorem runUntil_ne_fault (stop : State → Bool) (k : Nat) (s : State) (f : Fault) :
    runUntil stop k s ≠ .fault f := by
  induction k generalizing s with
  | zero => simp [runUntil]
  | succ k ih =>
    unfold runUntil
    split
    · simp
    · intro h
      rcases andThen_eq_fault.1 h with h | ⟨u, -, h⟩
      · exact microOperation_ne_fault s f h
      · exact ih u h

/-- A unit on the link: it reaches RXBUF, or is the occasion of a micro-operation on a link that differs from
the old one in its script at most. -/
theorem linkUnit_cases (unit : List Byte) (s : State) :
    (s.phase.running = true ∧ linkUnit unit s = microOperation s) ∨
    ((s.phase = .send ∨ s.phase = .eot) ∧
      linkUnit unit s = microOperation { s with link := s.link.answering unit }) ∨
    (s.phase ≠ .send ∧ s.phase ≠ .eot ∧ linkUnit unit s = .next (arriveBytes unit s)) := by
  unfold linkUnit
  by_cases h : engineUnit s = some unit
  · refine .inl ⟨?_, by simp [h]⟩
    cases hp : s.phase <;> simp [engineUnit, hp] at h <;> rfl
  · cases hp : s.phase <;> simp [h]

end Sys2Proof.Machine
end

