-- ==== Sys2Proof/Laws/PerInstr.lean ====
section
/-! SUPPORT. One fact about every operation as syntax: the bits that select it are those of its row of the
opcode table, and a wire unit has the length its first byte gives it. -/

namespace Sys2Proof.Laws.CodeForm

open Sys2Proof

/-- A mask and a value under it, as the opcode table gives them. -/
structure Selector where
  mask  : Nat
  value : Nat
  deriving DecidableEq, Repr

/-- The selecting bits of a coded form: a unit's first byte, CMD[3:0], PHASE[2:0] (30_encoding.md R52, R62,
R63). -/
def selector : Code → Selector
  | .wire bytes => ⟨0xFF, (bytes.headD 0).toNat⟩
  | .cmd code _ _ => ⟨0x0F, code.toNat⟩
  | .phase code => ⟨0x07, code.toNat⟩

/-- The row of spec/opcode_table.json; none for a row without a code (30_encoding.md R66, R67). -/
def row : Instr → Option Selector
  | .magic128 _ _ _ _ _ => some ⟨0xFF, 0x01⟩
  | .magic1k _ _ _ _ _ => some ⟨0xFF, 0x02⟩
  | .eot => some ⟨0xFF, 0x04⟩
  | .ack => some ⟨0xFF, 0x06⟩
  | .nak => some ⟨0xFF, 0x15⟩
  | .can => some ⟨0xFF, 0x18⟩
  | .crcreq => some ⟨0xFF, 0x43⟩
  | .crcClr => some ⟨0x0F, 1⟩
  | .crcUpd _ => some ⟨0x0F, 2⟩
  | .crcRd => some ⟨0x0F, 3⟩
  | .xferStart _ => some ⟨0x0F, 4⟩
  | .frmChk _ => some ⟨0x0F, 5⟩
  | .frmBuild => some ⟨0x07, 1⟩
  | .frmSend => some ⟨0x07, 2⟩
  | .eotSend => some ⟨0x07, 3⟩
  | .crcBlk _ => none
  | .xferRun _ => none
  | .frmSendretry => none
  | .rspDec _ => none

/-- The encoding of an operation is selected by its row, and a unit's length follows from its first byte
(30_encoding.md R50, R51, R56). -/
def Statement (i : Instr) : Prop :=
  (encode i).map selector = row i ∧
  (WellFormed i → ∀ unit, encode i = some (.wire unit) → unitLength (unit.headD 0) = some unit.length)

theorem magic128 (id cmpl : Byte) (payload : List Byte) (crcHi crcLo : Byte) :
    Statement (.magic128 id cmpl payload crcHi crcLo) := by
  refine ⟨rfl, fun h unit e => ?_⟩
  cases e
  have hl : payload.length = 128 := by simpa [WellFormed, Instr.wellFormed] using h
  simp [Machine.dataUnit, hl, unitLength, Machine.magic128Byte]

theorem magic1k (id cmpl : Byte) (payload : List Byte) (crcHi crcLo : Byte) :
    Statement (.magic1k id cmpl payload crcHi crcLo) := by
  refine ⟨rfl, fun h unit e => ?_⟩
  cases e
  have hl : payload.length = 1024 := by simpa [WellFormed, Instr.wellFormed] using h
  simp [Machine.dataUnit, hl, unitLength, Machine.magic128Byte, Machine.magic1kByte]

theorem eot : Statement .eot := ⟨rfl, fun _ _ e => by cases e; rfl⟩
theorem ack : Statement .ack := ⟨rfl, fun _ _ e => by cases e; rfl⟩
theorem nak : Statement .nak := ⟨rfl, fun _ _ e => by cases e; rfl⟩
theorem can : Statement .can := ⟨rfl, fun _ _ e => by cases e; rfl⟩
theorem crcreq : Statement .crcreq := ⟨rfl, fun _ _ e => by cases e; rfl⟩
theorem crcClr : Statement .crcClr := ⟨rfl, fun _ _ e => by cases e⟩
theorem crcUpd (b : Byte) : Statement (.crcUpd b) := ⟨rfl, fun _ _ e => by cases e⟩
theorem crcRd : Statement .crcRd := ⟨rfl, fun _ _ e => by cases e⟩
theorem xferStart (img : List Byte) : Statement (.xferStart img) := ⟨rfl, fun _ _ e => by cases e⟩
theorem frmChk (f : List Byte) : Statement (.frmChk f) := ⟨rfl, fun _ _ e => by cases e⟩
theorem frmBuild : Statement .frmBuild := ⟨rfl, fun _ _ e => by cases e⟩
theorem frmSend : Statement .frmSend := ⟨rfl, fun _ _ e => by cases e⟩
theorem eotSend : Statement .eotSend := ⟨rfl, fun _ _ e => by cases e⟩
theorem crcBlk (s : List Byte) : Statement (.crcBlk s) := ⟨rfl, fun _ _ e => by cases e⟩
theorem xferRun (img : List Byte) : Statement (.xferRun img) := ⟨rfl, fun _ _ e => by cases e⟩
theorem frmSendretry : Statement .frmSendretry := ⟨rfl, fun _ _ e => by cases e⟩
theorem rspDec (b : Byte) : Statement (.rspDec b) := ⟨rfl, fun _ _ e => by cases e⟩

end Sys2Proof.Laws.CodeForm
end

