-- ==== Sys2Proof/Laws/Step.lean ====
section
/-! SUPPORT. Everything a step can do, said once: while the engine runs one micro-operation; otherwise a
request, which writes ACC and the reply at most, or adds to RXBUF, or starts a transfer. -/

namespace Sys2Proof.Machine

/-- A micro-operation leaves the parameters and the requests alone. -/
theorem microOperation_keeps {s t : State} (h : microOperation s = .next t) :
    t.inputs = s.inputs ∧ t.resetReq = s.resetReq ∧ t.cfg = s.cfg := by
  unfold microOperation at h
  cases hp : s.phase <;> simp only [hp] at h
  · cases h; simp
  · rcases buildFrame_cases s with ⟨_, _, h'⟩ | ⟨_, _, _, h'⟩ <;> rw [h'] at h <;> cases h <;> simp
  · rcases sendFrame_cases s with ⟨_, _, h'⟩ | ⟨_, _, h'⟩ <;> rw [h'] at h <;> cases h; simp
  · rw [sendEot_eq] at h; cases h; simp
  · cases h; simp
  · cases h; simp

/-- While the engine runs a step is the micro-operation PHASE selects. -/
theorem step_of_running {s : State} (hr : s.resetReq = false) (hp : s.phase.running = true) :
    step s = microOperation s := by
  cases h : s.phase <;> rw [h] at hp <;> first | (cases hp; done) | skip
  all_goals simp [step, fetch, hr, h, Phase.running, Phase.code, decode, decodePhase, exec, execFrmBuild,
    execFrmSend, execEotSend, microOperation]

/-- What a request can do: it writes ACC and the reply, or adds to RXBUF, or starts a transfer from IDLE. -/
inductive Served (s : State) : State → Prop
  | registers (inputs : List Code) (a : Half) (w : Bool) (r : Option Reply) :
      Served s { s with inputs := inputs, acc := a, accWritten := w, reply := r }
  | arrival (inputs : List Code) (bytes : List Byte) :
      Served s (arriveBytes bytes { s with inputs := inputs })
  | start (inputs : List Code) (img : List Byte) (h : s.phase = .idle) :
      Served s (startTransfer img { s with inputs := inputs })

/-- A unit on the link while the engine does not run reaches RXBUF. -/
theorem linkUnit_of_idle {s : State} (hp : s.phase.running = false) (unit : List Byte) :
    linkUnit unit s = .next (arriveBytes unit s) := by
  rcases linkUnit_cases unit s with ⟨h, _⟩ | ⟨h, _⟩ | ⟨_, _, h⟩
  · rw [h] at hp; cases hp
  · rcases h with h | h <;> rw [h] at hp <;> cases hp
  · exact h

/-- An operation that a request stands for, while the engine does not run. -/
theorem exec_served {i : Instr} {s t : State} {inputs : List Code} (hp : s.phase.running = false)
    (hx : ∀ img, i ≠ .xferRun img) (h : exec i { s with inputs := inputs } = .next t) : Served s t := by
  have hlink : ∀ unit, linkUnit unit { s with inputs := inputs } = .next t → Served s t := fun unit h => by
    rw [linkUnit_of_idle (s := { s with inputs := inputs }) hp] at h; cases h; exact .arrival inputs unit
  have hdata : ∀ unit, dataUnitOnLink unit { s with inputs := inputs } = .next t → Served s t :=
    fun unit h => by
      simp only [dataUnitOnLink, hp, Bool.false_eq_true, if_false] at h
      cases h; exact .registers inputs s.acc s.accWritten _
  have hmicro : ∀ p : Phase, p.running = true → s.phase ≠ p := fun p h e => by rw [e, h] at hp; cases hp
  cases i with
  | magic128 => exact hdata _ h
  | magic1k => exact hdata _ h
  | eot => exact hlink _ h
  | ack => exact hlink _ h
  | nak => exact hlink _ h
  | can => exact hlink _ h
  | crcreq => exact hlink _ h
  | crcClr => cases (hostOperation_eq_next.1 h).2; exact .registers ..
  | crcUpd b =>
    obtain ⟨a, _, h⟩ := andThen_eq_next.1 (hostOperation_eq_next.1 h).2
    cases h; exact .registers ..
  | crcRd =>
    obtain ⟨a, _, h⟩ := andThen_eq_next.1 (hostOperation_eq_next.1 h).2
    cases h; exact .registers ..
  | xferStart img =>
    have h := (hostOperation_eq_next.1 h).2
    by_cases hi : s.phase = .idle
    · rw [if_pos hi] at h; cases h; exact .start inputs img hi
    · rw [if_neg hi] at h; cases h
  | frmChk => cases (hostOperation_eq_next.1 h).2; exact .registers ..
  | crcBlk => cases (hostOperation_eq_next.1 h).2; exact .registers ..
  | rspDec => cases h; exact .registers ..
  | frmBuild => simp [exec, execFrmBuild, hmicro .build rfl] at h
  | frmSend => simp [exec, execFrmSend, hmicro .send rfl] at h
  | eotSend => simp [exec, execEotSend, hmicro .eot rfl] at h
  | frmSendretry => simp [exec, execFrmSendretry, hmicro .send rfl] at h
  | xferRun img => exact absurd rfl (hx img)

/-- No coded form stands for XFER.RUN. -/
theorem decode_ne_xferRun {c : Code} {i : Instr} {rest : List Byte} (h : decode c = .ok i rest)
    (img : List Byte) : i ≠ .xferRun img := by
  rintro rfl
  cases c with
  | wire bytes =>
    cases bytes with
    | nil => cases h
    | cons b bs =>
      simp only [decode, decodeWire] at h
      repeat' split at h
      all_goals cases h
  | cmd code operand seq =>
    simp only [decode, decodeCommand] at h
    repeat' split at h
    all_goals cases h
  | phase code =>
    simp only [decode, decodePhase] at h
    repeat' split at h
    all_goals cases h

/-- Everything a step can do when no reset is requested. -/
theorem step_cases {s t : State} (hr : s.resetReq = false) (h : step s = .next t) :
    (s.phase.running = true ∧ microOperation s = .next t) ∨ (s.phase.running = false ∧ Served s t) := by
  by_cases hp : s.phase.running = true
  · exact .inl ⟨hp, step_of_running hr hp ▸ h⟩
  refine .inr ⟨by simpa using hp, ?_⟩
  simp only [Bool.not_eq_true] at hp
  unfold step fetch at h
  simp only [hr, Bool.false_eq_true, if_false, hp] at h
  rcases hin : s.inputs with _ | ⟨c, rest⟩
  · simp only [hin] at h; cases h; exact .registers s.inputs s.acc s.accWritten s.reply
  · simp only [hin] at h
    cases c with
    | phase code =>
      simp only [fetchRequest] at h; cases h; exact .registers rest s.acc s.accWritten s.reply
    | wire bytes =>
      simp only [fetchRequest] at h
      cases hd : decode (.wire bytes) with
      | reject e => simp only [hd] at h; cases h; exact .arrival rest bytes
      | ok i r => simp only [hd] at h; exact exec_served hp (decode_ne_xferRun hd) h
    | cmd code operand seq =>
      simp only [fetchRequest] at h
      cases hd : decode (.cmd code operand seq) with
      | reject e => simp only [hd] at h; cases h
      | ok i r => simp only [hd] at h; exact exec_served hp (decode_ne_xferRun hd) h

end Sys2Proof.Machine
end

