-- ==== Sys2Proof/Tests/Slice0.lean ====
section
/-! SUPPORT. The model's own tests: expected values from spec/95_test_vectors.md (its row ids are cited) and
from the encodings of spec/30_encoding.md, and for every statement with hypotheses a state that meets them. -/

namespace Sys2Proof.Tests

open Sys2Proof Sys2Proof.Machine

/-! ## Helpers -/

/-- The value of a next outcome. -/
def value {α : Type} : Host.Outcome α Fault Refusal → Option α
  | .next a => some a
  | .fault _ => none
  | .refused _ => none

/-- The refusal of a refused outcome. -/
def refusal {α : Type} : Host.Outcome α Fault Refusal → Option Refusal
  | .next _ => none
  | .fault _ => none
  | .refused r => some r

theorem next_of_value {α : Type} {o : Host.Outcome α Fault Refusal} {a : α} (h : value o = some a) :
    o = .next a := by cases o <;> simp_all [value]

/-- The 128-byte build right after reset, MAX_RETRY = 10. -/
def fresh : State := { State.reset with cfg := { mode := .b128, maxRetry := 10 } }

/-- The same in a phase. -/
def freshIn (p : Phase) : State := { fresh with phase := p }

/-- In BUILD with an image and a source that answers. -/
def building (img : List Byte) (pos : Nat) (reads : List IoResult) : State :=
  { fresh with phase := .build, blk := 0x01, src := { Source.reset with img := img, pos := pos, turns := reads } }

/-- Vector B5's frame: image AA BB CC, MODE = B128, id 1. -/
def frameB5 : List Byte := 0x01 :: 0x01 :: 0xFE :: 0xAA :: 0xBB :: 0xCC :: (List.replicate 125 0x00 ++ [0xEE, 0x53])

/-- In SEND with B5's frame, EOF as given, and the peer's answers. -/
def sending (eof : Bool) (blk : Byte) (retry : BitVec 4) (turns : List LinkTurn) : State :=
  { fresh with
    phase := .send, blk := blk, retry := retry, rlen := 3, eof := eof, acc := 0xEE53, accWritten := true
    fb := cells 0 frameB5
    src := { Source.reset with img := [0xAA, 0xBB, 0xCC], pos := 3 }
    link := { Link.reset with turns := turns } }

/-- In EOT after one acknowledged frame. -/
def ending (retry : BitVec 4) (turns : List LinkTurn) : State :=
  { sending true 0x02 retry turns with phase := .eot, prog := [0x01] }

/-- Nothing arrives within the read's timeout. -/
def silentTurns : List LinkTurn := [⟨[], .ok⟩, ⟨[], .ok⟩, ⟨[], .ok⟩, ⟨[], .ok⟩]

/-- The write fails. -/
def failedTurns : List LinkTurn := [⟨[], .ok⟩, ⟨[], .ioError⟩]

/-- What a row of section 4.1 lists. -/
structure Row where
  phase   : Phase
  blk     : Byte
  retry   : BitVec 4
  err     : ErrCode
  errinfo : Byte
  prog    : List Byte
  deriving DecidableEq, Repr

/-- The row of a state. -/
def rowOf (s : State) : Row := ⟨s.phase, s.blk, s.retry, s.err, s.errinfo, s.prog⟩

/-- The row of an outcome. -/
def after (o : Host.Outcome State Fault Refusal) : Option Row := (value o).map rowOf

/-- The state of a next outcome. -/
def stateOf (o : Host.Outcome State Fault Refusal) : State := (value o).getD State.reset

/-! ## Well-formed terms: each check refuses its ill-formed term -/

theorem test_ill_formed_magic128 :
    ¬ WellFormed (.magic128 0x01 0xFE (List.replicate 127 0x00) 0x00 0x00) ∧
    ¬ WellFormed (.magic128 0x01 0xFE (List.replicate 1024 0x00) 0x00 0x00) := by decide +kernel

theorem test_ill_formed_magic1k :
    ¬ WellFormed (.magic1k 0x01 0xFE (List.replicate 1023 0x00) 0x00 0x00) ∧
    ¬ WellFormed (.magic1k 0x01 0xFE (List.replicate 128 0x00) 0x00 0x00) := by decide +kernel

theorem test_well_formed :
    WellFormed (.magic128 0x01 0xFE (List.replicate 128 0x00) 0x00 0x00) ∧
    WellFormed (.magic1k 0x01 0x00 (List.replicate 1024 0x00) 0xAB 0xCD) ∧ WellFormed (.crcBlk []) := by
  decide +kernel

/-! ## Decoding: words written out from 30_encoding.md R50, R52, R62, R63 -/

theorem test_decode_magic128 :
    decode (.wire (0x01 :: 0x07 :: 0xF8 :: (List.replicate 128 0x5A ++ [0x12, 0x34, 0x04]))) =
      .ok (.magic128 0x07 0xF8 (List.replicate 128 0x5A) 0x12 0x34) [0x04] := by decide +kernel
theorem test_decode_magic1k :
    decode (.wire (0x02 :: 0xFF :: 0x00 :: (List.replicate 1024 0x5A ++ [0x12, 0x34]))) =
      .ok (.magic1k 0xFF 0x00 (List.replicate 1024 0x5A) 0x12 0x34) [] := by decide +kernel
theorem test_decode_eot : decode (.wire [0x04]) = .ok .eot [] := by decide
theorem test_decode_ack : decode (.wire [0x06, 0x15]) = .ok .ack [0x15] := by decide
theorem test_decode_nak : decode (.wire [0x15]) = .ok .nak [] := by decide
theorem test_decode_can : decode (.wire [0x18]) = .ok .can [] := by decide
theorem test_decode_crcreq : decode (.wire [0x43]) = .ok .crcreq [] := by decide
theorem test_decode_crcClr : decode (.cmd 0x1 0x00 []) = .ok .crcClr [] := by decide
theorem test_decode_crcUpd : decode (.cmd 0x2 0x31 []) = .ok (.crcUpd 0x31) [] := by decide
theorem test_decode_crcRd : decode (.cmd 0x3 0x00 []) = .ok .crcRd [] := by decide
theorem test_decode_xferStart : decode (.cmd 0x4 0x00 [0x41]) = .ok (.xferStart [0x41]) [] := by decide
theorem test_decode_frmChk : decode (.cmd 0x5 0x00 [0x04]) = .ok (.frmChk [0x04]) [] := by decide
theorem test_decode_frmBuild : decode (.phase 0x1) = .ok .frmBuild [] := by decide
theorem test_decode_frmSend : decode (.phase 0x2) = .ok .frmSend [] := by decide
theorem test_decode_eotSend : decode (.phase 0x3) = .ok .eotSend [] := by decide

/-- R52: a byte without a name; R56: a unit cut short; R64: the codes without an operation. -/
theorem test_decode_rejects :
    decode (.wire [0x86]) = .reject (.unnamedSymbol 0x86) ∧
    decode (.wire [0x01, 0x01, 0xFE]) = .reject (.truncatedFrame 3) ∧
    decode (.cmd 0x0 0x00 []) = .reject (.unassignedCommand 0x0) ∧
    decode (.cmd 0x6 0x00 []) = .reject (.unassignedCommand 0x6) ∧
    decode (.cmd 0xF 0x00 []) = .reject (.unassignedCommand 0xF) ∧
    decode (.phase 0x0) = .reject (.noMicroOperation 0x0) ∧
    decode (.phase 0x4) = .reject (.noMicroOperation 0x4) := by decide

/-- The pseudo-operations and RSP.DEC have no code of their own (R66, R67). -/
theorem test_no_code :
    encode (.crcBlk [0x31]) = none ∧ encode (.xferRun [0x41]) = none ∧ encode .frmSendretry = none ∧
    encode (.rspDec 0x06) = none := by decide

/-- The table's numbering: the symbols by their first byte, the commands and phases by theirs. -/
theorem test_table_words :
    decodeTableWord 8 0x06 = some .ack ∧ decodeTableWord 8 0x43 = some .crcreq ∧
    decodeTableWord 4 0x1 = some .crcClr ∧ decodeTableWord 3 0x2 = some .frmSend ∧
    decodeTableWord 8 0x03 = some .crcRd := by decide

/-! ## The CRC generator (section 2) -/

theorem test_crc16_check_value : crc16 [0x31, 0x32, 0x33, 0x34, 0x35, 0x36, 0x37, 0x38, 0x39] = 0x31C3 := by
  decide +kernel -- V2, the source's own value
theorem test_crcClr : (value (exec .crcClr fresh)).map (fun s => (s.acc, s.accWritten)) = some (0x0000, true) := by
  decide
theorem test_crcUpd_first :
    (value (exec (.crcUpd 0x31) { fresh with acc := 0x0000, accWritten := true })).map State.acc =
      some 0x2672 := by decide +kernel -- V8
theorem test_crcUpd_cancels :
    (value (exec (.crcUpd 0xFF) { fresh with acc := 0xFFFF, accWritten := true })).map State.acc =
      some 0xFF00 := by decide +kernel -- section 2.2
theorem test_crcUpd_unwritten : refusal (exec (.crcUpd 0x31) fresh) = some .accUnwritten := by decide -- 2.5
theorem test_crcRd_unwritten : refusal (exec .crcRd fresh) = some .accUnwritten := by decide -- 2.5
theorem test_crcRd :
    (value (exec .crcRd { fresh with acc := 0x20B5, accWritten := true })).map (fun s => (s.acc, s.reply)) =
      some (0x20B5, some (.crc 0x20B5)) := by decide -- 2.5
theorem test_crcBlk :
    (value (exec (.crcBlk [0xAA, 0x55]) fresh)).map (fun s => (s.acc, s.reply)) =
      some (0xF8E5, some (.crc 0xF8E5)) := by decide +kernel -- V14

/-! ## The frame encoder (section 3) -/

set_option maxRecDepth 100000 in
/-- B5: image AA BB CC, MODE = B128. -/
theorem test_frmBuild_short :
    let t := stateOf (exec .frmBuild (building [0xAA, 0xBB, 0xCC] 0 [.ok]))
    value (readFrame t) = some frameB5 ∧ t.rlen = 3 ∧ t.eof = true ∧ t.acc = 0xEE53 ∧ t.src.pos = 3 ∧
      t.phase = .send := by decide +kernel

/-- Section 3.3: the source fails at the first build. -/
theorem test_frmBuild_source_error :
    after (exec .frmBuild (building [0xAA] 0 [.ioError])) =
      some ⟨.error, 0x01, 0, .sourceIoError, 0x00, []⟩ := by decide

set_option maxRecDepth 100000 in
/-- B4 and R94: the empty image gives an all-zero frame with EOF set. -/
theorem test_frame_empty : frame .b128 [] 0x01 = 0x01 :: 0x01 :: 0xFE :: List.replicate 130 0x00 := by
  decide +kernel

/-! ## The transfer (section 4) -/

theorem test_frmSend_T1 : after (exec .frmSend (sending true 0x01 0 (answerTurns 0x06))) =
    some ⟨.eot, 0x02, 0, .none, 0x00, [0x01]⟩ := by decide +kernel
theorem test_frmSend_T8 : after (exec .frmSend (sending true 0x01 10 (answerTurns 0x18))) =
    some ⟨.error, 0x01, 10, .unknownProtocolByte, 0x18, []⟩ := by decide +kernel
theorem test_eotSend_T17 : after (exec .eotSend (ending 0 (answerTurns 0x18))) =
    some ⟨.eot, 0x02, 1, .none, 0x00, [0x01]⟩ := by decide +kernel
theorem test_eotSend_T18 : after (exec .eotSend (ending 10 (answerTurns 0x43))) =
    some ⟨.error, 0x02, 10, .transferAborted, 0x00, [0x01]⟩ := by decide +kernel
theorem test_frmSend_log_T13 :
    ((value (exec .frmSend (sending true 0x01 0 failedTurns))).map (fun s => s.link.txLog)) =
      some [.clearRx .ok, .write frameB5 .ioError] := by decide +kernel
theorem test_frmSend_wrap_T14 : after (exec .frmSend (sending false 0xFF 0 (answerTurns 0x06))) =
    some ⟨.build, 0x00, 0, .none, 0x00, [0xFF]⟩ := by decide +kernel
theorem test_xferStart_T22 : after (exec (.xferStart [0x41]) fresh) =
    some ⟨.build, 0x01, 0, .none, 0x00, []⟩ := by decide
theorem test_xferStart_T23 : refusal (exec (.xferStart [0x41]) (freshIn .done)) = some .transferEnded := by
  decide

set_option maxRecDepth 100000 in
/-- Section 4.3 with MAX_SENDS = 11: ten NAKs and an ACK are eleven frames. -/
theorem test_frmSendretry_last_send :
    let t := stateOf (exec .frmSendretry (sending true 0x01 0 (answersTurns (List.replicate 10 0x15 ++ [0x06]))))
    rowOf t = ⟨.eot, 0x02, 0, .none, 0x00, [0x01]⟩ ∧
      unitsWritten t.link.txLog = List.replicate 11 frameB5 := by decide +kernel

set_option maxRecDepth 100000 in
/-- Section 4.3: eleven NAKs abort. -/
theorem test_frmSendretry_abort :
    after (exec .frmSendretry (sending true 0x01 0 (answersTurns (List.replicate 11 0x15)))) =
      some ⟨.error, 0x01, 10, .transferAborted, 0x00, []⟩ := by decide +kernel

set_option maxRecDepth 100000 in
/-- Section 4.2, last row: 300 bytes in 128-byte blocks are three frames. -/
theorem test_xferRun_300_bytes :
    let img := (List.range 300).map (fun i => BitVec.ofNat 8 (i % 251))
    let t := stateOf (exec (.xferRun img) { fresh with
      src := { Source.reset with turns := List.replicate 3 .ok }
      link := { Link.reset with turns := answersTurns (List.replicate 4 0x06) } })
    rowOf t = ⟨.done, 0x04, 0, .none, 0x00, [0x01, 0x02, 0x03]⟩ ∧ t.src.pos = 300 ∧
      (txBytes t.link.txLog).length = 400 ∧
      (unitsWritten t.link.txLog).map (fun u => u.drop 131) = [[0xE8, 0x0A], [0xD2, 0x00], [0x46, 0x33], []] := by
  decide +kernel

/-! ## The decoders (section 5) -/

theorem test_rspDec : [0x06, 0x15, 0x86, 0x95].map responseOf = [.ack, .nak, .other 0x86, .other 0x95] := by
  decide
theorem test_rspDec_reply : (value (exec (.rspDec 0x07) (freshIn .send))).map State.reply =
    some (some (.response (.other 0x07))) := by decide
set_option maxRecDepth 100000 in
theorem test_frmChk_valid : (value (exec (.frmChk frameB5) fresh)).map State.reply =
    some (some (.check (.valid 0x01 (0xAA :: 0xBB :: 0xCC :: List.replicate 125 0x00)))) := by decide +kernel
set_option maxRecDepth 100000 in
theorem test_frmChk_order :
    checkFrame .b128 (frameB5.set 2 0xFF) = .invalid .badComplement ∧
    checkFrame .b128 (frameB5.set 3 0xAB) = .invalid .badCrc ∧
    checkFrame .b128 ((frameB5.set 0 0x02).set 2 0x00) = .invalid .badMagic ∧
    checkFrame .k1 frameB5 = .invalid .badLength ∧ checkFrame .b128 [0x04] = .invalid .badLength := by
  decide +kernel -- K3, K4, K11, K10, K9 in the 128-byte mode

/-! ## The wire symbols -/

theorem test_ack_in_send : after (exec .ack (sending true 0x01 10 [])) =
    some ⟨.eot, 0x02, 0, .none, 0x00, [0x01]⟩ := by decide +kernel -- T6
theorem test_nak_in_send : after (exec .nak (sending true 0x01 9 [])) =
    some ⟨.send, 0x01, 10, .none, 0x00, []⟩ := by decide +kernel -- T4
theorem test_can_in_send : after (exec .can (sending true 0x01 0 [])) =
    some ⟨.error, 0x01, 0, .unknownProtocolByte, 0x18, []⟩ := by decide +kernel -- T7
theorem test_crcreq_in_eot : after (exec .crcreq (ending 10 [])) =
    some ⟨.error, 0x02, 10, .transferAborted, 0x00, [0x01]⟩ := by decide +kernel -- T18
theorem test_eot_in_eot : after (exec .eot (ending 10 (answerTurns 0x06))) =
    some ⟨.done, 0x02, 10, .none, 0x00, [0x01]⟩ := by decide +kernel -- T19
theorem test_eot_in_idle : (value (exec .eot fresh)).map (fun s => s.link.rxbuf) = some [0x04] := by decide
set_option maxRecDepth 100000 in
theorem test_magic128_checked :
    (value (exec (.magic128 0x01 0xFE (0xAA :: 0xBB :: 0xCC :: List.replicate 125 0x00) 0xEE 0x53) fresh)).map
      State.reply = some (some (.check (.valid 0x01 (0xAA :: 0xBB :: 0xCC :: List.replicate 125 0x00)))) := by
  decide +kernel
theorem test_magic1k_checked :
    (value (exec (.magic1k 0x01 0xFE [] 0x00 0x00) fresh)).map State.reply =
      some (some (.check (.invalid .badLength))) := by decide +kernel

/-! ## The host's two questions, on a few words -/

theorem test_fetch_word_runs :
    (value (step (State.reset.withFetchWord 8 0x06))).map (fun s => s.link.rxbuf) = some [0x06] ∧
    (value (step (State.reset.withFetchWord 4 0x4))).map State.phase = some .build ∧
    (value (step (State.reset.withFetchWord 3 0x3))).isNone = false := by
  refine ⟨by decide, by decide, ?_⟩
  rfl

/-! ## Witnesses: for every statement with hypotheses a state, or one per clause, that meets them -/

theorem wit_IdleBlockWaits :
    fresh.phase.running = false ∧ fresh.inputs = [] ∧ fresh.resetReq = false := by decide

theorem wit_HardwareResetFromAnyPhase :
    (State.resetReq { sending true 0x01 3 [] with resetReq := true }) = true := by decide

/-- The four clauses: a running engine, a command, a unit alone, a unit with bytes after it. -/
theorem wit_StepRunsDecodedOperation :
    ((freshIn .build).resetReq = false ∧ (freshIn .build).phase.running = true ∧
      decode (.phase (freshIn .build).phase.code) = .ok .frmBuild []) ∧
    (fresh.resetReq = false ∧ fresh.phase.running = false ∧ decode (.cmd 0x5 0x00 []) = .ok (.frmChk []) []) ∧
    decode (.wire [0x43]) = .ok .crcreq [] ∧ decode (.wire [0x04, 0x06]) = .ok .eot [0x06] := by decide

theorem wit_PhaseSelectsMicroOperation :
    (freshIn .build).phase = .build ∧ (freshIn .send).phase = .send ∧ (freshIn .eot).phase = .eot ∧
    (freshIn .eot).resetReq = false := by decide

/-- At the ends of both ranges of codes: 0, 6 and 15 without, 1 and 5 with an operation. -/
theorem wit_UnassignedCommandsRefused :
    refusal (step { fresh with inputs := [.cmd 0 0x00 []] }) = some (.unassignedCommand 0) ∧
    refusal (step { fresh with inputs := [.cmd 6 0x00 []] }) = some (.unassignedCommand 6) ∧
    refusal (step { fresh with inputs := [.cmd 15 0x00 []] }) = some (.unassignedCommand 15) ∧
    (value (step { fresh with inputs := [.cmd 1 0x00 []] })).isSome = true ∧
    (value (step { fresh with inputs := [.cmd 5 0x00 []] })).isSome = true := by decide

theorem wit_DecodeOfEncode :
    (WellFormed .nak ∧ encode .nak = some (.wire [0x15])) ∧
    (WellFormed (.crcUpd 0xFF) ∧ encode (.crcUpd 0xFF) = some (.cmd 0x2 0xFF [])) ∧
    (WellFormed .eotSend ∧ encode .eotSend = some (.phase 3)) := by decide

theorem wit_EncodeOfDecode : decode (.wire [0x18, 0x01]) = .ok .can [0x01] := by decide

theorem wit_CrcLaws : ([0xAA, 0x55] : List Byte).length = ([0xFF, 0xFF] : List Byte).length := by decide

/-- For CrcClearClears, CrcUpdateTakesByte, CrcReadReturnsAcc, CrcBlockReturnsCrc16, CrcBlockRefinesExpansion and
FrmChkVerdict: both sides of the condition on the phase, and both of the one on ACC. -/
theorem wit_CrcOperations :
    fresh.phase.running = false ∧ (freshIn .eot).phase.running = true ∧ (freshIn .error).phase.running = false ∧
    fresh.accWritten = false ∧ (ending 0 []).accWritten = true ∧ fresh.resetReq = false := by decide

/-- The chunk empty, short by one, full, and full with more behind it. -/
theorem wit_FrmBuildMakesFrame :
    ∀ img ∈ [[], List.replicate 127 0x01, List.replicate 128 0x01, List.replicate 129 0x01],
      (building img 0 [.ok]).phase = .build ∧ (building img 0 [.ok]).src.turns = .ok :: [] := by decide

theorem wit_FrmBuildRaisesSourceError :
    (building [0x41] 1 [.ioError]).phase = .build ∧ (building [0x41] 1 [.ioError]).src.turns = .ioError :: [] := by
  decide

theorem wit_MicroOperationsNeedTheirPhase :
    fresh.phase ≠ .build ∧ fresh.phase ≠ .send ∧ fresh.phase ≠ .eot := by decide

/-- An exchange with an answer, one without, and one that fails. -/
theorem wit_ExchangeOrderFixed :
    (Link.exchange [0x04] { Link.reset with turns := answerTurns 0x06 }).1 = .byte 0x06 ∧
    (Link.exchange [0x04] { Link.reset with turns := silentTurns }).1 = .timeout ∧
    (Link.exchange [0x04] { Link.reset with turns := failedTurns }).1 = .ioError := by decide

theorem wit_XferStartWritesStartValues :
    fresh.phase = .idle ∧ (freshIn .done).phase = .done ∧ (freshIn .error).phase = .error ∧
    (freshIn .build).phase.running = true := by decide

/-- The frame buffer of the states in SEND reads as B5's frame (FrmSendAnswers, FrmSendretryLeavesSend,
FrmSendretryCeiling, PeerSymbolsByPhase, EotSymbolByPhase, DataUnitsByPhase). -/
theorem wit_readFrame (eof : Bool) (blk : Byte) (retry : BitVec 4) (turns : List LinkTurn) :
    readFrame (sending eof blk retry turns) = .next frameB5 :=
  readFrame_of_cells rfl (show frameB5.length = 133 by decide +kernel)

/-- What each clause of FRM.SEND and of EOT.SEND asks of the exchange, and of RETRY at and below the ceiling. -/
theorem wit_exchange_outcomes :
    (∀ b ∈ [0x06, 0x15, 0x00, 0xFF],
      ((sending true 0x01 0 (answerTurns b)).link.exchange frameB5).1 = .byte b) ∧
    ((sending true 0x01 0 silentTurns).link.exchange frameB5).1 = .timeout ∧
    ((sending true 0x01 0 failedTurns).link.exchange frameB5).1 = .ioError ∧
    (∀ b ∈ [0x06, 0x15, 0x00, 0xFF], ((ending 0 (answerTurns b)).link.exchange [0x04]).1 = .byte b) ∧
    ((ending 0 silentTurns).link.exchange [0x04]).1 = .timeout ∧
    ((ending 0 failedTurns).link.exchange [0x04]).1 = .ioError := by decide +kernel

theorem wit_FrmSendAnswers :
    (sending true 0x01 9 []).phase = .send ∧ (sending true 0x01 9 []).eof = true ∧
    (sending false 0x01 9 []).eof = false ∧ (sending true 0x01 9 []).retry ≠ (sending true 0x01 9 []).cfg.maxRetry ∧
    (sending true 0x01 10 []).retry = (sending true 0x01 10 []).cfg.maxRetry := by decide +kernel

theorem wit_EotSendAnswers :
    (ending 9 []).phase = .eot ∧ (ending 9 []).retry ≠ (ending 9 []).cfg.maxRetry ∧
    (ending 10 []).retry = (ending 10 []).cfg.maxRetry := by decide +kernel

/-- No NAK, the most a frame survives, and one more. -/
theorem wit_FrmSendretryCeiling :
    (∀ k ∈ [0, 10], k ≤ (fresh.cfg.maxRetry).toNat ∧
      (sending true 0x01 0 (answersTurns (List.replicate k 0x15 ++ [0x06]))).link.turns =
        answersTurns (List.replicate k 0x15 ++ [0x06]) ++ []) ∧
    (sending true 0x01 0 (answersTurns (List.replicate (maxSends fresh.cfg) 0x15))).link.turns =
      answersTurns (List.replicate (maxSends fresh.cfg) 0x15) ++ [] ∧
    (sending true 0x01 0 []).retry = 0 := by decide +kernel

/-- Also for XferRunRefinesSteps. -/
theorem wit_XferRunEnds : fresh.phase = .idle ∧ fresh.resetReq = false := by decide

/-- Image lengths 0, 127, 128 and 129: one frame, one, two, two. -/
theorem wit_XferRunAllAcknowledged :
    ∀ n ∈ [0, 127, 128, 129],
      let s := { fresh with
        src := { Source.reset with turns := List.replicate (n / 128 + 1) .ok }
        link := { Link.reset with turns := answersTurns (List.replicate (n / 128 + 2) 0x06) } }
      s.phase = .idle ∧ s.src.turns = List.replicate (n / payloadLen s.cfg.mode + 1) .ok ++ [] ∧
        s.link.turns = answersTurns (List.replicate (n / payloadLen s.cfg.mode + 1 + 1) 0x06) ++ [] := by decide

/-- A frame for each clause: lengths 132 and 134, the wrong magic, complement sums 254 and 256, a wrong CRC, and
B5's. -/
theorem wit_FrmChkVerdict :
    (frameB5.take 132).length ≠ payloadLen .b128 + 5 ∧ (frameB5 ++ [0x00]).length ≠ payloadLen .b128 + 5 ∧
    (frameB5.set 0 0x02)[0]? ≠ some (magicByte .b128) ∧
    (((frameB5.set 2 0xFD).getD 1 0).toNat + ((frameB5.set 2 0xFD).getD 2 0).toNat) % 256 ≠ 255 ∧
    (((frameB5.set 2 0xFF).getD 1 0).toNat + ((frameB5.set 2 0xFF).getD 2 0).toNat) % 256 ≠ 255 ∧
    frameB5.length = payloadLen .b128 + 5 ∧ frameB5[0]? = some (magicByte .b128) ∧
    ((frameB5.getD 1 0).toNat + (frameB5.getD 2 0).toNat) % 256 = 255 := by decide +kernel

set_option maxRecDepth 100000 in
theorem wit_FrmChkVerdict_crc :
    (crc16 ((frameB5.drop 3).take 128)).toNat = 0xEE * 256 + 0x53 ∧
    (crc16 (((frameB5.set 3 0xAB).drop 3).take 128)).toNat ≠ 0xEE * 256 + 0x53 := by decide +kernel

set_option maxRecDepth 100000 in
theorem wit_FrameCheckRoundTrip :
    ([] : List Byte).length ≤ payloadLen .b128 ∧ (List.replicate 128 (0xFF : Byte)).length ≤ payloadLen .b128 ∧
    checkFrame .b128 frameB5 = .valid 0x01 (0xAA :: 0xBB :: 0xCC :: List.replicate 125 0x00) := by decide +kernel

/-- The first and the last bit of the frame. -/
theorem wit_SingleBitErrorDetected :
    0 < frameLen .b128 ∧ 132 < frameLen .b128 ∧ 7 < 8 ∧ flipBit frameB5 132 7 = frameB5.set 132 0xD3 ∧
    flipBit frameB5 0 0 = frameB5.set 0 0x00 := by decide

/-- Also for EotSymbolByPhase. -/
theorem wit_PeerSymbolsByPhase :
    (sending true 0x01 9 []).phase = .send ∧ (ending 10 []).phase = .eot ∧ (freshIn .build).phase ≠ .send ∧
    (freshIn .build).phase ≠ .eot := by decide +kernel

set_option maxRecDepth 100000 in
/-- The engine's own unit in BUILD and SEND, and one that is not. -/
theorem wit_DataUnitsByPhase :
    frameB5 = frame .b128 (([0xAA, 0xBB, 0xCC].drop 0).take (payloadLen .b128)) 0x01 ∧
    frameB5.set 1 0x02 ≠ frame .b128 (([0xAA, 0xBB, 0xCC].drop 0).take (payloadLen .b128)) 0x01 ∧
    (building [0xAA, 0xBB, 0xCC] 0 [.ok]).phase = .build ∧ frameB5 ≠ frameB5.set 1 0x02 ∧
    frameB5.headD 0 = 0x01 := by decide +kernel

/-- Next states that the frame statements (FrameBufferStores, ParametersNeverChange, HostOperationsFrame,
EngineOperationsFrame, DataUnitsFrame, ExecKeepsFrameBuffer) speak of: of each kind of operation one. -/
theorem wit_frames :
    (∀ i ∈ [Instr.crcClr, .crcUpd 0x31, .crcRd, .crcBlk [], .frmChk [], .rspDec 0x06, .ack],
      (value (exec i { fresh with accWritten := true })).isSome = true) ∧
    (value (exec .frmSendretry (sending true 0x01 0 (answerTurns 0x06)))).isSome = true ∧
    (value (exec .frmSend (sending true 0x01 0 (answerTurns 0x06)))).isSome = true ∧
    (value (exec .eotSend (ending 0 (answerTurns 0x06)))).isSome = true ∧
    (value (exec (.xferStart []) fresh)).isSome = true ∧
    (value (exec .frmBuild (building [] 0 [.ok]))).isSome = true ∧
    (value (exec (.magic128 0x01 0xFE [] 0x00 0x00) fresh)).isSome = true ∧
    (value (exec (.magic1k 0x01 0xFE [] 0x00 0x00) (ending 0 []))).isSome = true ∧
    mayStore .frmSend fresh = false ∧ mayStore (.magic1k 0x01 0xFE [] 0x00 0x00) (ending 0 []) = false := by
  decide +kernel

theorem wit_FrameBufferOk : FrameBufferOk (sending true 0x01 0 []) := by
  refine ⟨cells_wf 0 frameB5, fun c hc => ?_⟩
  have := mem_cells_bounds hc
  have hl : frameB5.length = 133 := by decide +kernel
  have hf : frameLen (sending true 0x01 0 []).cfg.mode = 133 := rfl
  omega

set_option maxRecDepth 100000 in
/-- B5's frame is the frame of its image's first chunk. -/
theorem frameB5_eq : frameB5 = frame .b128 (chunkOf .b128 [0xAA, 0xBB, 0xCC] 0) 0x01 := by decide +kernel

/-- For StepKeepsSound, RunningEngineSteps, PhaseFollowsTable and NoReadWhileUnacknowledged: a sound state in SEND;
BUILD and EOT follow, and then that their steps answer. -/
theorem wit_Sound_send : Sound (sending true 0x01 3 (answerTurns 0x06)) := by
  refine ⟨wit_FrameBufferOk, by unfold SourceOk; decide, by unfold FlushOk; decide, fun _ => by decide, by unfold ErrOk; decide, fun _ => rfl, ?_, fun _ => ?_⟩
  · intro h; cases h
  · exact ⟨congrArg (cells 0) frameB5_eq, by decide, by decide, by decide⟩

theorem wit_Sound_build : Sound (building [0x41] 0 [.ok]) := by
  refine ⟨⟨Memory.wf_nil, fun c hc => by cases hc⟩, by unfold SourceOk; decide, by unfold FlushOk; decide, ?_, by unfold ErrOk; decide, fun _ => rfl,
    fun _ => rfl, ?_⟩
  · rintro (h | h) <;> cases h
  · intro h; cases h

theorem wit_Sound_eot : Sound (ending 10 (answerTurns 0x15)) := by
  refine ⟨wit_FrameBufferOk, by unfold SourceOk; decide, by unfold FlushOk; decide, fun _ => by decide, by unfold ErrOk; decide, fun _ => rfl, ?_, ?_⟩ <;>
    (intro h; cases h)

theorem wit_steps_answer :
    (value (step (sending true 0x01 3 (answerTurns 0x06)))).isSome = true ∧
    (value (step (building [0x41] 0 [.ok]))).isSome = true ∧
    (value (step (ending 10 (answerTurns 0x15)))).isSome = true ∧ (value (step fresh)).isSome = true := by
  decide +kernel

/-- After one exchange, with the next one scripted; and the same state with a reset requested. -/
theorem wit_StepAppendsToStreamAndLog :
    let t := stateOf (exec .eotSend (ending 0 (answersTurns [0x15, 0x06])))
    (t.link.txStream = [0x04] ∧ t.resetReq = false ∧ (value (step t)).isSome = true) ∧
    (value (step { t with resetReq := true })).map (fun u => (u.link.txLog, u.prog, u.link.txStream)) =
      some ([], [], [0x04]) := by decide +kernel

/-- The first byte unwritten, and the last one alone. -/
theorem wit_SendOfUnwrittenFrameRefused :
    (freshIn .send).phase = .send ∧ 0 < frameLen fresh.cfg.mode ∧ Memory.read fresh.fb 0 = none ∧
    refusal (exec .frmSend (freshIn .send)) = some (.frameByteUnwritten 0) ∧
    Memory.read (cells 0 (frameB5.take 132)) 132 = none ∧
    (∀ i ∈ List.range 132, Memory.read (cells 0 (frameB5.take 132)) i ≠ none) ∧
    refusal (exec .ack { freshIn .send with fb := cells 0 (frameB5.take 132) }) =
      some (.frameByteUnwritten 132) := by decide +kernel

/-- A clear that succeeds (StaleBytesCannotMatter). -/
theorem wit_StaleBytesCannotMatter :
    (Link.clearRx { Link.reset with rxbuf := [0x15], turns := answerTurns 0x06 }).1 = .ok := by decide

theorem wit_UnitsOnly : UnitsOnly (ending 0 []) := fun _ he => nomatch he

/-- An engine that ended, in either way, and a request it still serves. -/
theorem wit_EndIsAbsorbing :
    (freshIn .done).phase = .done ∧ (freshIn .error).phase = .error ∧
    (value (step { freshIn .done with inputs := [.cmd 0x1 0x00 []] })).isSome = true ∧
    (value (step { freshIn .error with inputs := [.wire [0x06]] })).isSome = true := by decide

/-- A step that enters ERROR, for each of the three ways it can. -/
theorem wit_ErrorsByPhase :
    after (step (building [0x41] 0 [.ioError])) = some ⟨.error, 0x01, 0, .sourceIoError, 0x00, []⟩ ∧
    after (step (ending 4 silentTurns)) = some ⟨.error, 0x02, 4, .linkTimeout, 0x00, [0x01]⟩ ∧
    after (step (sending true 0x01 0 (answerTurns 0x86))) =
      some ⟨.error, 0x01, 0, .unknownProtocolByte, 0x86, []⟩ := by decide +kernel

end Sys2Proof.Tests
end

/-! PROOFS. The state's invariant (10_state.md): what a micro-operation does to the link, soundness after each
answer of the engine, after each micro-operation, request and reset, and so after every step. -/

namespace Sys2Proof.Machine

/-! ## The link after an exchange -/

/-- An exchange leaves the link's configuration alone (20_memory.md R41, 70_reset_and_hazards.md R183). -/
theorem Link.exchange_config (unit : List Byte) (l : Link) :
    (l.exchange unit).2.readTimeout = l.readTimeout ∧ (l.exchange unit).2.baudRate = l.baudRate := by
  obtain ⟨-, -, -, hct, hcb, -⟩ := l.clearRx_spec
  obtain ⟨-, -, -, -, hwt, hwb⟩ := l.clearRx.2.write_spec unit
  obtain ⟨-, -, -, -, hft, hfb⟩ := (l.clearRx.2.write unit).2.flush_spec
  obtain ⟨-, -, -, hrt, hrb⟩ := (l.clearRx.2.write unit).2.flush.2.readByte_spec
  rcases l.exchange_paths unit with ⟨-, h⟩ | ⟨-, -, h⟩ | ⟨-, -, -, h⟩ | ⟨-, -, -, h⟩ <;> rw [h]
  · exact ⟨hct, hcb⟩
  · exact ⟨hwt.trans hct, hwb.trans hcb⟩
  · exact ⟨(hft.trans hwt).trans hct, (hfb.trans hwb).trans hcb⟩
  · exact ⟨((hrt.trans hft).trans hwt).trans hct, ((hrb.trans hfb).trans hwb).trans hcb⟩

/-- An exchange hands over no more than has been written (20_memory.md R37). -/
theorem Link.exchange_flushed (unit : List Byte) {l : Link} (hl : l.txFlushed ≤ l.txStream.length) :
    (l.exchange unit).2.txFlushed ≤ (l.exchange unit).2.txStream.length := by
  have hclear : l.clearRx.2.txFlushed ≤ l.clearRx.2.txStream.length := by
    obtain ⟨-, hs, hf, -⟩ := l.clearRx_spec
    rwa [hs, hf]
  have hwrite : (l.clearRx.2.write unit).2.txFlushed ≤ (l.clearRx.2.write unit).2.txStream.length := by
    obtain ⟨-, ⟨k, hs⟩, -, hf, -⟩ := l.clearRx.2.write_spec unit
    rw [hs, hf, List.length_append]
    exact Nat.le_add_right_of_le hclear
  have hflush : (l.clearRx.2.write unit).2.flush.2.txFlushed ≤
      (l.clearRx.2.write unit).2.flush.2.txStream.length := by
    obtain ⟨-, hs, -, hle, -⟩ := (l.clearRx.2.write unit).2.flush_spec
    rw [hs]
    exact (hle hwrite).2
  rcases l.exchange_paths unit with ⟨-, h⟩ | ⟨-, -, h⟩ | ⟨-, -, -, h⟩ | ⟨-, -, -, h⟩ <;> rw [h]
  · exact hclear
  · exact hwrite
  · exact hflush
  · obtain ⟨-, hs, hf, -⟩ := (l.clearRx.2.write unit).2.flush.2.readByte_spec
    rwa [hs, hf]

/-- A micro-operation does nothing on the link, or one exchange. -/
theorem microOperation_link {s t : State} (h : microOperation s = .next t) :
    t.link = s.link ∨ ∃ unit, t.link = (s.link.exchange unit).2 := by
  unfold microOperation at h
  cases hp : s.phase <;> simp only [hp] at h
  case build =>
    rcases buildFrame_cases s with ⟨_, _, h'⟩ | ⟨_, _, _, h'⟩ <;> rw [h'] at h <;> cases h <;> exact .inl rfl
  case send =>
    rcases sendFrame_cases s with ⟨_, _, h'⟩ | ⟨unit, _, h'⟩ <;> rw [h'] at h <;> cases h
    exact .inr ⟨unit, by simp⟩
  case eot =>
    rw [sendEot_eq] at h; cases h
    exact .inr ⟨[eotByte], by simp⟩
  all_goals cases h; exact .inl rfl

/-! ## The parts of the invariant under the engine's operations -/

/-- A frame buffer just filled with one frame's bytes is canonical and within the frame. -/
theorem frameBufferOk_of_cells {s : State} {bytes : List Byte} (hfb : s.fb = cells 0 bytes)
    (hl : bytes.length = frameLen s.cfg.mode) : FrameBufferOk s := by
  unfold FrameBufferOk
  rw [hfb]
  refine ⟨cells_wf 0 bytes, fun c hc => ?_⟩
  have hbound := mem_cells_bounds hc
  omega

/-- FRM.BUILD's frame replaces all that a well-formed frame buffer lists. -/
theorem FrameBufferOk.writeRange_frame {s : State} (h : FrameBufferOk s) {chunk : List Byte}
    (hl : chunk.length ≤ payloadLen s.cfg.mode) (id : Byte) :
    s.fb.writeRange 0 (frame s.cfg.mode chunk id) = cells 0 (frame s.cfg.mode chunk id) :=
  Memory.writeRange_all fun c hc => (frame_length hl id).symm ▸ h.2 c hc

/-- Outside ERROR no error is set. -/
theorem ErrOk.err_eq_none {s : State} (h : ErrOk s) (hp : s.phase ≠ .error) : s.err = .none :=
  Decidable.not_not.1 (mt h.2 hp)

/-- An error may be raised from any state whose frame buffer, source and link are in order: nothing else is
claimed in ERROR. -/
theorem raiseError_sound {s : State} {x : ErrCode} (hx : x ≠ .none) (info : Byte) (hfb : FrameBufferOk s)
    (hsrc : SourceOk s) (hflush : FlushOk s) : Sound (raiseError x info s) := by
  refine ⟨hfb, hsrc, hflush, ?_, ?_, ?_, ?_, ?_⟩
  · simp [RetryOk]
  · simp [ErrOk, hx]
  all_goals simp

/-- The link matters to soundness through the flush alone. -/
theorem Sound.withLink {s : State} (h : Sound s) {l : Link} (hl : l.txFlushed ≤ l.txStream.length) :
    Sound { s with link := l } := by
  obtain ⟨hfb, hsrc, -, hretry, herr, htransfer⟩ := h
  exact ⟨hfb, hsrc, hl, hretry, herr, htransfer⟩

/-- Where RETRY has not reached its ceiling, one more is within it. -/
theorem retry_succ_le {r m : BitVec 4} (h : r.toNat ≤ m.toNat) (hne : r ≠ m) : (r + 1).toNat ≤ m.toNat := by
  bv_omega

/-- A retry counted below the ceiling, in SEND or EOT. -/
theorem countRetry_sound {s : State} (h : Sound s) (hp : s.phase = .send ∨ s.phase = .eot)
    (hr : retryExhausted s = false) : Sound (countRetry s) := by
  obtain ⟨hfb, hsrc, hflush, hretry, herr, htransfer⟩ := h
  have hne : s.retry ≠ s.cfg.maxRetry := by simpa [retryExhausted] using hr
  exact ⟨hfb, hsrc, hflush, fun _ => retry_succ_le (hretry hp) hne, herr, htransfer⟩

/-- A retry, or at the ceiling the abort. -/
theorem retryOrAbort_sound {s : State} (h : Sound s) (hp : s.phase = .send ∨ s.phase = .eot) :
    Sound (if retryExhausted s then raiseError .transferAborted 0 s else countRetry s) := by
  cases hr : retryExhausted s with
  | true =>
    obtain ⟨hfb, hsrc, hflush, -⟩ := h
    exact raiseError_sound (by decide) 0 hfb hsrc hflush
  | false => exact countRetry_sound h hp hr

/-- The acknowledged frame: one more in PROG, BLK one further; the chunk was full where the next phase is
BUILD, so the source stands at the next chunk (42_transfer_fsm.md R109, R110). -/
theorem advance_sound {s : State} (h : Sound s) (hp : s.phase = .send) : Sound (advance s) := by
  obtain ⟨hfb, hsrc, hflush, hretry, herr, hblk, -, hsend⟩ := h
  obtain ⟨-, hpos, -, heof⟩ := hsend hp
  have hnone : s.err = .none := herr.err_eq_none (by simp [hp])
  have hblk' : s.blk + 1 = BitVec.ofNat 8 (s.prog.length + 1 + 1) := by
    rw [hblk (.inr (.inl hp))]; simp [BitVec.ofNat_add]
  refine ⟨by simpa [FrameBufferOk] using hfb, by simpa [SourceOk] using hsrc,
    by simpa [FlushOk] using hflush, ?_, ?_, ?_, ?_, ?_⟩
  · cases he : s.eof <;> simp [RetryOk, he]
  · cases he : s.eof <;> simp [ErrOk, he, hnone]
  · simpa using fun _ => hblk'
  · intro hbuild
    have hfull : ¬ (chunkOf s.cfg.mode s.src.img s.prog.length).length < payloadLen s.cfg.mode := by
      cases he : s.eof with
      | true => simp [he] at hbuild
      | false => simpa [heof, eofFlag] using he
    have hle : (chunkOf s.cfg.mode s.src.img s.prog.length).length ≤ payloadLen s.cfg.mode := by
      simp [chunkOf]
    simp only [advance_src, advance_cfg, advance_prog, List.length_append, List.length_singleton, Nat.mul_add]
    omega
  · cases he : s.eof <;> simp [he]

/-- The acknowledged EOT. -/
theorem finish_sound {s : State} (h : Sound s) (hp : s.phase = .eot) : Sound (finish s) := by
  obtain ⟨hfb, hsrc, hflush, -, herr, hblk, -, -⟩ := h
  have hnone : s.err = .none := herr.err_eq_none (by simp [hp])
  refine ⟨hfb, hsrc, hflush, ?_, ?_, fun _ => hblk (.inr (.inr (.inl hp))), ?_, ?_⟩
  · simp [RetryOk]
  · simp [ErrOk, hnone]
  all_goals simp

theorem frameResponse_sound {s : State} (h : Sound s) (hp : s.phase = .send) (r : Response) :
    Sound (frameResponse r s) := by
  cases r with
  | ack => exact advance_sound h hp
  | nak => exact retryOrAbort_sound h (.inl hp)
  | other b =>
    obtain ⟨hfb, hsrc, hflush, -⟩ := h
    exact raiseError_sound (by decide) b hfb hsrc hflush

theorem eotResponse_sound {s : State} (h : Sound s) (hp : s.phase = .eot) (r : Response) :
    Sound (eotResponse r s) := by
  cases r with
  | ack => exact finish_sound h hp
  | nak => exact retryOrAbort_sound h (.inr hp)
  | other b => exact retryOrAbort_sound h (.inr hp)

theorem frameAnswer_sound {s : State} (h : Sound s) (hp : s.phase = .send) (r : ReadResult) :
    Sound (frameAnswer r s) := by
  obtain ⟨hfb, hsrc, hflush, -⟩ := id h
  cases r with
  | ioError => exact raiseError_sound (by decide) 0 hfb hsrc hflush
  | timeout => exact raiseError_sound (by decide) 0 hfb hsrc hflush
  | byte b => exact frameResponse_sound h hp (responseOf b)

theorem eotAnswer_sound {s : State} (h : Sound s) (hp : s.phase = .eot) (r : ReadResult) :
    Sound (eotAnswer r s) := by
  obtain ⟨hfb, hsrc, hflush, -⟩ := id h
  cases r with
  | ioError => exact raiseError_sound (by decide) 0 hfb hsrc hflush
  | timeout => exact raiseError_sound (by decide) 0 hfb hsrc hflush
  | byte b => exact eotResponse_sound h hp (responseOf b)

/-! ## Soundness after each kind of step -/

/-- A chunk's length fits in RLEN (10_state.md R13). -/
theorem payloadLen_lt (m : Mode) : payloadLen m < 2 ^ 11 := by cases m <;> decide

/-- A frame just built is where the acknowledged frames put it: the read from BUILD's cursor delivered the
next chunk (41_frame_encoder.md R85, R92). -/
theorem buildFrame_sound {s t : State} (h : Sound s) (hp : s.phase = .build) (ht : buildFrame s = .next t) :
    Sound t := by
  obtain ⟨hfb, hsrc, hflush, -, herr, hblk, hbuild, -⟩ := h
  have hpos := hbuild hp
  rcases buildFrame_cases s with ⟨src, hread, h'⟩ | ⟨chunk, src, hread, h'⟩ <;> rw [h'] at ht <;> cases ht
  · obtain ⟨himg, hle⟩ := Source.read_none hread
    exact raiseError_sound (by decide) 0 (frameBufferOk_of_cells (bytes := _) rfl (by simp))
      (by simpa [SourceOk, himg] using hle) hflush
  · have hlen := Source.read_length hread
    obtain ⟨hchunk, himg, hpos'⟩ := Source.read_some hread
    have hof : chunk = chunkOf s.cfg.mode s.src.img s.prog.length := by rw [hchunk, hpos]; rfl
    have hcells := hfb.writeRange_frame hlen s.blk
    have hnone : s.err = .none := herr.err_eq_none (by simp [hp])
    have hlt : chunk.length < 2 ^ 11 := Nat.lt_of_le_of_lt hlen (payloadLen_lt s.cfg.mode)
    refine ⟨frameBufferOk_of_cells (bytes := _) hcells (frame_length hlen s.blk), ?_, hflush,
      ?_, ?_, ?_, ?_, ?_⟩
    · have htake := congrArg List.length hchunk
      simp only [List.length_take, List.length_drop] at htake
      unfold SourceOk at hsrc ⊢
      simp only [himg, hpos']
      omega
    · simp [RetryOk]
    · simp [ErrOk, hnone]
    · exact fun _ => hblk (.inl hp)
    · simp
    · intro _
      simp only [himg, hpos', ← hof]
      exact ⟨hcells, by rw [hpos], by simpa using Nat.mod_eq_of_lt hlt, trivial⟩

theorem microOperation_sound {s t : State} (h : Sound s) (ht : microOperation s = .next t) : Sound t := by
  obtain ⟨-, -, hflush, -⟩ := id h
  unfold microOperation at ht
  cases hp : s.phase <;> simp only [hp] at ht
  case build => exact buildFrame_sound h hp ht
  case send =>
    rcases sendFrame_cases s with ⟨_, _, h'⟩ | ⟨unit, _, h'⟩ <;> rw [h'] at ht <;> cases ht
    exact frameAnswer_sound (h.withLink (Link.exchange_flushed unit hflush)) hp _
  case eot =>
    rw [sendEot_eq] at ht; cases ht
    exact eotAnswer_sound (h.withLink (Link.exchange_flushed [eotByte] hflush)) hp _
  all_goals cases ht; exact h

/-- XFER.START: no frame is acknowledged, and the source stands at its beginning. -/
theorem startTransfer_sound {s : State} (h : Sound s) (img : List Byte) : Sound (startTransfer img s) := by
  obtain ⟨hfb, -, hflush, -⟩ := h
  refine ⟨hfb, ?_, hflush, ?_, ?_, ?_, ?_, ?_⟩
  · simp [SourceOk]
  · simp [RetryOk]
  · simp [ErrOk]
  all_goals simp

theorem Served.sound {s t : State} (h : Sound s) (ht : Served s t) : Sound t := by
  obtain ⟨hfb, hsrc, hflush, hretry, herr, htransfer⟩ := id h
  cases ht with
  | registers inputs a w r => exact ⟨hfb, hsrc, hflush, hretry, herr, htransfer⟩
  | arrival inputs bytes => exact ⟨hfb, hsrc, hflush, hretry, herr, htransfer⟩
  | start inputs img =>
    have hs : Sound { s with inputs := inputs } := ⟨hfb, hsrc, hflush, hretry, herr, htransfer⟩
    exact startTransfer_sound hs img

theorem hardwareReset_sound {s : State} (h : Sound s) : Sound (hardwareReset s) := by
  obtain ⟨-, hsrc, hflush, -⟩ := h
  refine ⟨?_, hsrc, hflush, ?_, ?_, ?_, ?_, ?_⟩
  · simp [FrameBufferOk]
  · simp [RetryOk]
  · simp [ErrOk]
  all_goals simp

/-- A requested hardware reset is the whole step (70_reset_and_hazards.md R171). -/
theorem step_of_resetReq {s : State} (h : s.resetReq = true) : step s = .next (hardwareReset s) := by
  simp [step, fetch, h]

/-- Settles O50: soundness holds after a reset, after each micro-operation and after each request served. -/
theorem stepKeepsSound : Obligations.StepKeepsSound := by
  unfold Obligations.StepKeepsSound
  intro s t h ht
  cases hr : s.resetReq with
  | true =>
    rw [step_of_resetReq hr] at ht
    cases ht
    exact hardwareReset_sound h
  | false =>
    rcases step_cases hr ht with ⟨-, hm⟩ | ⟨-, hs⟩
    · exact microOperation_sound h hm
    · exact hs.sound h

end Sys2Proof.Machine

/-! PROOFS. What every operation is made of, said once, and from it the frames of the operations. -/

namespace Sys2Proof.Machine

/-! ## What every operation is made of -/

/-- The operations that write ACC for the host or start a transfer (30_encoding.md R62, R66). -/
def isHostWrite : Instr → Bool
  | .crcClr | .crcUpd _ | .crcBlk _ | .xferStart _ | .xferRun _ => true
  | .magic128 .. | .magic1k .. | .eot | .ack | .nak | .can | .crcreq | .crcRd | .frmChk _ | .frmBuild | .frmSend
  | .eotSend | .frmSendretry | .rspDec _ => false

/-- `t` is reached from `s` by elementary actions: a result for the host, a new script of the peer, an arrival,
a micro-operation, and, where `host` holds, a write of ACC or the start of a transfer. FRM.BUILD is among the
micro-operations only where `build` holds. -/
inductive Actions (build host : Prop) : State → State → Prop
  | refl (s : State) : Actions build host s s
  | reply (s : State) (r : Option Reply) : Actions build host s { s with reply := r }
  | script (s : State) (turns : List LinkTurn) :
      Actions build host s { s with link := { s.link with turns := turns } }
  | arrival (s : State) (bytes : List Byte) : Actions build host s (arriveBytes bytes s)
  | micro {s t : State} (hb : s.phase = .build → build) (h : microOperation s = .next t) :
      Actions build host s t
  | acc (s : State) (hh : host) (a : Half) (w : Bool) :
      Actions build host s { s with acc := a, accWritten := w }
  | start (s : State) (hh : host) (img : List Byte) : Actions build host s (startTransfer img s)
  | trans {s t u : State} (h : Actions build host s t) (k : Actions build host t u) : Actions build host s u

/-- A unit of the peer's while an exchange waits is its answer. -/
theorem linkUnit_of_answer {s : State} {unit : List Byte} (he : engineUnit s ≠ some unit)
    (hp : s.phase = .send ∨ s.phase = .eot) :
    linkUnit unit s = microOperation { s with link := s.link.answering unit } := by
  rw [linkUnit, if_neg he]
  rcases hp with hp | hp <;> simp [hp]

/-- A unit of the peer's while no exchange waits reaches RXBUF. -/
theorem linkUnit_of_arrival {s : State} {unit : List Byte} (he : engineUnit s ≠ some unit)
    (hp : ¬ (s.phase = .send ∨ s.phase = .eot)) : linkUnit unit s = .next (arriveBytes unit s) := by
  rw [linkUnit, if_neg he]
  cases h : s.phase <;> simp [h] at hp ⊢

section Actions
variable {build host : Prop}

/-- A micro-operation as an operation, refused outside the phase `p` that selects it. -/
theorem Actions.selected {s t : State} {p : Phase} {r : Refusal} {o : Host.Outcome State Fault Refusal}
    (hb : p = .build → build) (ho : s.phase = p → o = microOperation s)
    (h : (if s.phase = p then o else .refused r) = .next t) : Actions build host s t := by
  by_cases hp : s.phase = p
  · rw [if_pos hp, ho hp] at h
    exact .micro (fun e => hb (hp ▸ e)) h
  · rw [if_neg hp] at h; cases h

/-- A run of micro-operations up to a state in which `stop` holds. -/
theorem Actions.runUntil {s t : State} {stop : State → Bool}
    (hb : ∀ u : State, stop u = false → u.phase = .build → build) (k : Nat)
    (h : runUntil stop k s = .next t) : Actions build host s t := by
  induction k generalizing s with
  | zero => cases h; exact .refl _
  | succ k ih =>
    unfold Machine.runUntil at h
    cases hs : stop s with
    | true => rw [hs] at h; cases h; exact .refl _
    | false =>
      rw [hs] at h
      obtain ⟨u, hu, ht⟩ := andThen_eq_next.1 h
      exact .trans (.micro (hb s hs) hu) (ih ht)

/-- A unit on the link, which in BUILD may be the engine's own. -/
theorem Actions.linkUnit {s t : State} {unit : List Byte}
    (hb : s.phase = .build → engineUnit s = some unit → build) (h : linkUnit unit s = .next t) :
    Actions build host s t := by
  by_cases he : engineUnit s = some unit
  · rw [Machine.linkUnit, if_pos he] at h
    exact .micro (fun hp => hb hp he) h
  by_cases hp : s.phase = .send ∨ s.phase = .eot
  · rw [linkUnit_of_answer he hp] at h
    have hne : s.phase ≠ .build := by rcases hp with hp | hp <;> simp [hp]
    exact .trans (.script s (s.link.answering unit).turns) (.micro (fun e => absurd e hne) h)
  · rw [linkUnit_of_arrival he hp] at h
    cases h
    exact .arrival s unit

/-- A symbol of one byte is never the frame that FRM.BUILD makes. -/
theorem engineUnit_ne_symbol_of_build {s : State} (hp : s.phase = .build) (b : Byte) :
    engineUnit s ≠ some [b] := by
  simp [engineUnit, hp, frame, dataUnit]

theorem Actions.symbol {s t : State} {b : Byte} (h : Machine.linkUnit [b] s = .next t) :
    Actions build host s t :=
  .linkUnit (fun hp he => absurd he (engineUnit_ne_symbol_of_build hp b)) h

theorem Actions.dataUnit {s t : State} {unit : List Byte} (hb : s.phase = .build → build)
    (h : dataUnitOnLink unit s = .next t) : Actions build host s t := by
  unfold dataUnitOnLink at h
  split at h
  · exact .linkUnit (fun hp _ => hb hp) h
  · cases h; exact .reply s _

end Actions

/-- An XFER.START that answers found the block idle and wrote the start values. -/
theorem execXferStart_eq_next {img : List Byte} {s t : State} (h : execXferStart img s = .next t) :
    s.phase = .idle ∧ t = startTransfer img s := by
  have h := (hostOperation_eq_next.1 h).2
  by_cases hp : s.phase = .idle
  · rw [if_pos hp] at h; cases h; exact ⟨hp, rfl⟩
  · rw [if_neg hp] at h; cases h

/-- Every operation is elementary actions: a build among them only where it may store into the frame buffer, a
write of ACC or a start only for the host's writing operations. -/
theorem exec_actions {i : Instr} {s t : State} (h : exec i s = .next t) :
    Actions (mayStore i s = true) (isHostWrite i = true) s t := by
  cases i with
  | magic128 => exact .dataUnit (fun hp => by simp [mayStore, hp]) h
  | magic1k => exact .dataUnit (fun hp => by simp [mayStore, hp]) h
  | eot => exact .symbol h
  | ack => exact .symbol h
  | nak => exact .symbol h
  | can => exact .symbol h
  | crcreq => exact .symbol h
  | crcClr =>
    cases (hostOperation_eq_next.1 h).2
    exact .trans (.acc s rfl 0 true) (.reply _ none)
  | crcUpd b =>
    obtain ⟨a, -, h⟩ := andThen_eq_next.1 (hostOperation_eq_next.1 h).2
    cases h
    exact .trans (.acc s rfl (crcByte a b) s.accWritten) (.reply _ none)
  | crcRd =>
    obtain ⟨a, -, h⟩ := andThen_eq_next.1 (hostOperation_eq_next.1 h).2
    cases h
    exact .reply s _
  | crcBlk bytes =>
    cases (hostOperation_eq_next.1 h).2
    exact .trans (.acc s rfl (crcFrom 0 bytes) true) (.reply _ _)
  | frmChk => cases (hostOperation_eq_next.1 h).2; exact .reply s _
  | rspDec => cases h; exact .reply s _
  | xferStart img =>
    obtain ⟨-, rfl⟩ := execXferStart_eq_next h
    exact .start s rfl img
  | xferRun img =>
    obtain ⟨u, hu, h⟩ := andThen_eq_next.1 h
    obtain ⟨-, rfl⟩ := execXferStart_eq_next hu
    exact .trans (.start s rfl img) (.runUntil (fun _ _ _ => rfl) _ h)
  | frmBuild => exact .selected (fun _ => rfl) (fun hp => by simp [microOperation, hp]) h
  | frmSend => exact .selected (by simp) (fun hp => by simp [microOperation, hp]) h
  | eotSend => exact .selected (by simp) (fun hp => by simp [microOperation, hp]) h
  | frmSendretry =>
    by_cases hp : s.phase = .send
    · rw [exec, execFrmSendretry, if_pos hp] at h
      exact .runUntil (fun u hu hb => by simp [hb] at hu) 16 h
    · simp [exec, execFrmSendretry, hp] at h

/-! ## What the actions leave unchanged -/

/-- The parameters, the link's configuration, the requests and the reset request are the same. -/
def SameParameters (s t : State) : Prop :=
  t.cfg = s.cfg ∧ t.link.readTimeout = s.link.readTimeout ∧ t.link.baudRate = s.link.baudRate ∧
    t.inputs = s.inputs ∧ t.resetReq = s.resetReq

theorem microOperation_sameParameters {s t : State} (h : microOperation s = .next t) : SameParameters s t := by
  obtain ⟨hinputs, hreq, hcfg⟩ := microOperation_keeps h
  rcases microOperation_link h with hl | ⟨unit, hl⟩
  · exact ⟨hcfg, by rw [hl], by rw [hl], hinputs, hreq⟩
  · obtain ⟨htimeout, hbaud⟩ := s.link.exchange_config unit
    exact ⟨hcfg, by rw [hl, htimeout], by rw [hl, hbaud], hinputs, hreq⟩

theorem Actions.sameParameters {build host : Prop} {s t : State} (h : Actions build host s t) :
    SameParameters s t := by
  induction h with
  | micro _ h => exact microOperation_sameParameters h
  | trans _ _ ih ih' =>
    obtain ⟨h1, h2, h3, h4, h5⟩ := ih
    obtain ⟨k1, k2, k3, k4, k5⟩ := ih'
    exact ⟨k1.trans h1, k2.trans h2, k3.trans h3, k4.trans h4, k5.trans h5⟩
  | refl | reply | script | arrival | acc | start => exact ⟨rfl, rfl, rfl, rfl, rfl⟩

/-- ACC, RLEN, EOF, the frame buffer and the source are the same: what a frame is built from and built into. -/
def SameFrameData (s t : State) : Prop :=
  t.acc = s.acc ∧ t.accWritten = s.accWritten ∧ t.rlen = s.rlen ∧ t.eof = s.eof ∧ t.fb = s.fb ∧ t.src = s.src

theorem microOperation_sameFrameData {s t : State} (hp : s.phase ≠ .build) (h : microOperation s = .next t) :
    SameFrameData s t := by
  unfold microOperation at h
  cases hp' : s.phase <;> simp only [hp'] at h
  case build => exact absurd hp' hp
  case send =>
    rcases sendFrame_cases s with ⟨_, _, h'⟩ | ⟨_, _, h'⟩ <;> rw [h'] at h <;> cases h
    simp [SameFrameData]
  case eot => rw [sendEot_eq] at h; cases h; simp [SameFrameData]
  all_goals cases h; exact ⟨rfl, rfl, rfl, rfl, rfl, rfl⟩

/-- Without a build, and without a write by the host, the frame and what it comes from stay. -/
theorem Actions.sameFrameData {build host : Prop} {s t : State} (hb : ¬ build) (hh : ¬ host)
    (h : Actions build host s t) : SameFrameData s t := by
  induction h with
  | micro hp h => exact microOperation_sameFrameData (fun e => hb (hp e)) h
  | trans _ _ ih ih' =>
    obtain ⟨h1, h2, h3, h4, h5, h6⟩ := ih
    obtain ⟨k1, k2, k3, k4, k5, k6⟩ := ih'
    exact ⟨k1.trans h1, k2.trans h2, k3.trans h3, k4.trans h4, k5.trans h5, k6.trans h6⟩
  | acc _ h => exact absurd h hh
  | start _ h => exact absurd h hh
  | refl | reply | script | arrival => exact ⟨rfl, rfl, rfl, rfl, rfl, rfl⟩

/-- Without a build the frame buffer stays. -/
theorem Actions.fb_eq {build host : Prop} {s t : State} (hb : ¬ build) (h : Actions build host s t) :
    t.fb = s.fb := by
  induction h with
  | micro hp h =>
    obtain ⟨-, -, -, -, hfb, -⟩ := microOperation_sameFrameData (fun e => hb (hp e)) h
    exact hfb
  | trans _ _ ih ih' => exact ih'.trans ih
  | refl | reply | script | arrival | acc | start => rfl

theorem microOperation_frameBufferOk {s t : State} (hs : FrameBufferOk s) (h : microOperation s = .next t) :
    FrameBufferOk t := by
  by_cases hp : s.phase = .build
  · simp only [microOperation, hp] at h
    rcases buildFrame_cases s with ⟨src, _, h'⟩ | ⟨chunk, src, hread, h'⟩ <;> rw [h'] at h <;> cases h
    · exact frameBufferOk_of_cells (bytes := _) rfl (by simp)
    · have hlen := Source.read_length hread
      exact frameBufferOk_of_cells (bytes := _) (hs.writeRange_frame hlen s.blk) (frame_length hlen s.blk)
  · obtain ⟨-, -, -, -, hfb, -⟩ := microOperation_sameFrameData hp h
    obtain ⟨-, -, hcfg⟩ := microOperation_keeps h
    unfold FrameBufferOk
    rwa [hfb, hcfg]

theorem Actions.frameBufferOk {build host : Prop} {s t : State} (h : Actions build host s t)
    (hs : FrameBufferOk s) : FrameBufferOk t := by
  induction h with
  | micro _ h => exact microOperation_frameBufferOk hs h
  | trans _ _ ih ih' => exact ih' (ih hs)
  | refl | reply | script | arrival | acc | start => exact hs

/-- Nothing is listed, so nothing is read, from FRAME_LEN on. -/
theorem FrameBufferOk.read_outside {s : State} (h : FrameBufferOk s) {a : Nat} (ha : frameLen s.cfg.mode ≤ a) :
    Memory.read s.fb a = none :=
  Memory.read_none_of_forall fun c hc => by have hlt := h.2 c hc; omega

/-! ## The obligations about frames -/

/-- Settles O44: without a build the whole frame buffer stays, and a well-formed frame buffer, which every
operation keeps, lists nothing from FRAME_LEN on, before and after. -/
theorem frameBufferStores : Obligations.FrameBufferStores := by
  unfold Obligations.FrameBufferStores
  intro i s t h
  have hact := exec_actions h
  refine ⟨fun hm a => ?_, fun hok a ha => ?_⟩
  · rw [hact.fb_eq (by simp [hm])]
  · obtain ⟨hcfg, -⟩ := hact.sameParameters
    rw [hok.read_outside ha, (hact.frameBufferOk hok).read_outside (hcfg ▸ ha)]

/-- Settles O45: none of the elementary actions touches the parameters. -/
theorem parametersNeverChange : Obligations.ParametersNeverChange := by
  unfold Obligations.ParametersNeverChange
  intro i s t h
  exact (exec_actions h).sameParameters

/-- EOT.SEND leaves BLK, PROG and ERRINFO alone (42_transfer_fsm.md R111). -/
theorem execEotSend_frame {s t : State} (h : execEotSend s = .next t) :
    t.blk = s.blk ∧ t.prog = s.prog ∧ t.errinfo = s.errinfo := by
  by_cases hp : s.phase = .eot
  · rw [execEotSend, if_pos hp, sendEot_eq] at h; cases h; simp
  · rw [execEotSend, if_neg hp] at h; cases h

/-- FRM.BUILD leaves BLK, PROG, ERRINFO and the link alone (41_frame_encoder.md R97). -/
theorem execFrmBuild_frame {s t : State} (h : execFrmBuild s = .next t) :
    t.blk = s.blk ∧ t.prog = s.prog ∧ t.errinfo = s.errinfo ∧ t.link = s.link := by
  by_cases hp : s.phase = .build
  · rw [execFrmBuild, if_pos hp] at h
    rcases buildFrame_cases s with ⟨_, _, h'⟩ | ⟨_, _, _, h'⟩ <;> rw [h'] at h <;> cases h <;> simp
  · rw [execFrmBuild, if_neg hp] at h; cases h

/-- Settles O47: the operations that send or receive have no build and no write by the host among their actions;
EOT.SEND, FRM.BUILD and XFER.START by what each of them does. -/
theorem engineOperationsFrame : Obligations.EngineOperationsFrame := by
  unfold Obligations.EngineOperationsFrame
  intro i s t h
  refine ⟨fun hi => ?_, ?_, ?_, ?_⟩
  · have hkind : mayStore i s = false ∧ isHostWrite i = false := by
      rcases hi with rfl | rfl | rfl | rfl | rfl | rfl | rfl | rfl <;> exact ⟨rfl, rfl⟩
    exact (exec_actions h).sameFrameData (by simp [hkind.1]) (by simp [hkind.2])
  · rintro rfl; exact execEotSend_frame h
  · rintro rfl; exact execFrmBuild_frame h
  · rintro ⟨img, rfl⟩
    obtain ⟨-, rfl⟩ := execXferStart_eq_next h
    simp

/-- While the engine does not run a data unit is checked, and the result is all it leaves. -/
theorem dataUnitOnLink_of_idle {s : State} (hp : s.phase.running = false) (unit : List Byte) :
    dataUnitOnLink unit s = .next (giveReply (.check (checkFrame s.cfg.mode unit)) s) := by
  simp [dataUnitOnLink, hp]

/-- Both data units are a unit on the link, which may store in BUILD alone. -/
theorem exec_dataUnit {i : Instr} (hi : ∃ id cmpl payload hi lo,
      i = .magic128 id cmpl payload hi lo ∨ i = .magic1k id cmpl payload hi lo) :
    isHostWrite i = false ∧
      ∃ unit, ∀ s, exec i s = dataUnitOnLink unit s ∧ mayStore i s = (s.phase == .build) := by
  obtain ⟨id, cmpl, payload, hi, lo, rfl | rfl⟩ := hi
  · exact ⟨rfl, _, fun _ => ⟨rfl, rfl⟩⟩
  · exact ⟨rfl, _, fun _ => ⟨rfl, rfl⟩⟩

/-- Settles O48: outside BUILD a data unit has no build among its actions; while the engine does not run it only
gives the result of its check. -/
theorem dataUnitsFrame : Obligations.DataUnitsFrame := by
  unfold Obligations.DataUnitsFrame
  intro i s t hi h
  obtain ⟨hhost, unit, hunit⟩ := exec_dataUnit hi
  obtain ⟨hexec, hstore⟩ := hunit s
  refine ⟨fun hp => ?_, fun hp => ?_⟩
  · exact (exec_actions h).sameFrameData (by simpa [hstore] using hp) (by simp [hhost])
  · rw [hexec, dataUnitOnLink_of_idle hp] at h
    cases h
    simp

/-! ## The histories of the link -/

/-- A micro-operation adds to the link's histories at their ends. -/
theorem microOperation_link_extends {s t : State} (h : microOperation s = .next t) : s.link.Extends t.link := by
  rcases microOperation_link h with hl | ⟨unit, hl⟩ <;> rw [hl]
  · exact .of_eq rfl rfl
  · exact s.link.exchange_extends unit

/-- A request served while the engine does not run adds nothing to them. -/
theorem Served.link_extends {s t : State} (h : Served s t) : s.link.Extends t.link := by
  cases h <;> exact .of_eq rfl rfl

/-- Settles O52: by what a step can be, a reset, a micro-operation or a request served. -/
theorem stepAppendsToStreamAndLog : Obligations.StepAppendsToStreamAndLog := by
  unfold Obligations.StepAppendsToStreamAndLog
  intro s t h
  refine ⟨fun hr => ?_, fun hr => ?_⟩
  · rcases step_cases hr h with ⟨-, hm⟩ | ⟨-, hs⟩
    · exact microOperation_link_extends hm
    · exact hs.link_extends
  · rw [step_of_resetReq hr] at h
    cases h
    exact ⟨rfl, rfl⟩

/-! ## The unwritten frame buffer -/

section Unwritten
variable {s : State} {r : Refusal}

/-- In SEND a frame that cannot be read is not sent. -/
theorem microOperation_of_readFrame_refused (hp : s.phase = .send) (h : readFrame s = .refused r) :
    microOperation s = .refused r := by
  simp [microOperation, hp, sendFrame, h]

/-- Nor does a unit received as the answer make it sent: the engine has no unit of its own there. -/
theorem linkUnit_of_readFrame_refused (hp : s.phase = .send) (h : readFrame s = .refused r) (unit : List Byte) :
    linkUnit unit s = .refused r := by
  have hnone : engineUnit s ≠ some unit := by simp [engineUnit, hp, h]
  have hsame : readFrame { s with link := s.link.answering unit } = readFrame s := readFrame_congr rfl rfl
  rw [linkUnit_of_answer hnone (.inl hp)]
  exact microOperation_of_readFrame_refused hp (hsame.trans h)

theorem dataUnitOnLink_of_readFrame_refused (hp : s.phase = .send) (h : readFrame s = .refused r)
    (unit : List Byte) : dataUnitOnLink unit s = .refused r := by
  rw [dataUnitOnLink, if_pos (by rw [hp]; rfl)]
  exact linkUnit_of_readFrame_refused hp h unit

theorem execFrmSend_of_readFrame_refused (hp : s.phase = .send) (h : readFrame s = .refused r) :
    execFrmSend s = .refused r := by
  simp [execFrmSend, hp, sendFrame, h]

theorem execFrmSendretry_of_readFrame_refused (hp : s.phase = .send) (h : readFrame s = .refused r) :
    execFrmSendretry s = .refused r := by
  simp [execFrmSendretry, hp, runUntil, microOperation_of_readFrame_refused hp h]

end Unwritten

/-- Settles O60: the first unwritten byte refuses the reading of the frame, and that refuses every operation that
would send it. -/
theorem sendOfUnwrittenFrameRefused : Obligations.SendOfUnwrittenFrameRefused := by
  unfold Obligations.SendOfUnwrittenFrameRefused
  intro s j hp hj hnone hwritten
  have hread := readFrame_of_unwritten hj hnone hwritten
  have hunit := linkUnit_of_readFrame_refused hp hread
  have hdata := dataUnitOnLink_of_readFrame_refused hp hread
  refine ⟨?_, fun id cmpl payload hi lo => ⟨hdata _, hdata _⟩⟩
  simp only [List.forall_mem_cons]
  exact ⟨execFrmSend_of_readFrame_refused hp hread, execFrmSendretry_of_readFrame_refused hp hread,
    hunit _, hunit _, hunit _, hunit _, hunit _, by simp⟩

end Sys2Proof.Machine

/-! PROOFS. What the memory and the link guarantee in every step (20_memory.md): the order of an exchange, a free
peer, no stale byte, the frame buffer within the frame, no fault, only whole units sent, no read ahead. -/

namespace Sys2Proof.Machine

/-! ## The events of an exchange -/

/-- An exchange that does not fail: its four events, the whole unit written, everything flushed (20_memory.md R37,
R41). -/
theorem Link.exchange_of_ne_ioError {unit : List Byte} {l : Link} (h : (l.exchange unit).1 ≠ .ioError) :
    (l.exchange unit).2.txLog = l.txLog ++ exchangeEvents unit (l.exchange unit).1 ∧
    (l.exchange unit).2.txStream = l.txStream ++ unit ∧
    (l.exchange unit).2.txFlushed = (l.exchange unit).2.txStream.length := by
  obtain ⟨hclear, hclearStream, -⟩ := l.clearRx_spec
  obtain ⟨hwrite, -, hwriteStream, -⟩ := l.clearRx.2.write_spec unit
  obtain ⟨hflush, hflushStream, hflushed, -⟩ := (l.clearRx.2.write unit).2.flush_spec
  obtain ⟨hread, hreadStream, hreadFlushed, -⟩ := (l.clearRx.2.write unit).2.flush.2.readByte_spec
  rcases l.exchange_paths unit with ⟨-, he⟩ | ⟨-, -, he⟩ | ⟨-, -, -, he⟩ | ⟨hc, hw, hf, he⟩
  · simp [he] at h
  · simp [he] at h
  · simp [he] at h
  · rw [he, hreadStream, hreadFlushed, hflushed hf, hflushStream]
    exact ⟨by simp [hread, hflush, hwrite, hclear, hc, hw, hf, exchangeEvents],
      by rw [hwriteStream hw, hclearStream], rfl⟩

/-- An exchange that fails: its events up to the one that failed (20_memory.md R41, 60_exceptions.md R152). -/
theorem Link.exchange_of_ioError {unit : List Byte} {l : Link} (h : (l.exchange unit).1 = .ioError) :
    ∃ events ∈ failedExchangeEvents unit, (l.exchange unit).2.txLog = l.txLog ++ events := by
  obtain ⟨hclear, -⟩ := l.clearRx_spec
  obtain ⟨hwrite, -⟩ := l.clearRx.2.write_spec unit
  obtain ⟨hflush, -⟩ := (l.clearRx.2.write unit).2.flush_spec
  obtain ⟨hread, -⟩ := (l.clearRx.2.write unit).2.flush.2.readByte_spec
  rcases l.exchange_paths unit with ⟨hc, he⟩ | ⟨hc, hw, he⟩ | ⟨hc, hw, hf, he⟩ | ⟨hc, hw, hf, he⟩ <;>
    rw [he] at h ⊢
  · exact ⟨[.clearRx .ioError], by simp [failedExchangeEvents], by rw [hclear, hc]⟩
  · exact ⟨[.clearRx .ok, .write unit .ioError], by simp [failedExchangeEvents],
      by simp [hwrite, hclear, hc, hw]⟩
  · exact ⟨[.clearRx .ok, .write unit .ok, .flush .ioError], by simp [failedExchangeEvents],
      by simp [hflush, hwrite, hclear, hc, hw, hf]⟩
  · exact ⟨[.clearRx .ok, .write unit .ok, .flush .ok, .read .ioError], by simp [failedExchangeEvents],
      by simp [hread, hflush, hwrite, hclear, hc, hw, hf, h]⟩

/-- Settles O25: by whether the exchange fails. -/
theorem exchangeOrderFixed : Obligations.ExchangeOrderFixed := by
  unfold Obligations.ExchangeOrderFixed
  intro unit l l' r h
  obtain ⟨rfl, rfl⟩ := Prod.mk.inj h
  exact ⟨Link.exchange_of_ne_ioError, Link.exchange_of_ioError, l.exchange_config unit⟩

/-! ## The peer -/

/-- The turns of a peer that sends nothing, in which `k` primitives succeed and the next one fails. -/
def failingTurns (k : Nat) : List LinkTurn := List.replicate k ⟨[], .ok⟩ ++ [⟨[], .ioError⟩]

/-- A primitive of an exchange fails and ends it, whichever of the four the peer chooses. -/
theorem Link.exchange_failingTurns (unit : List Byte) (l : Link) {k : Nat} {events : List LinkEvent}
    (h : (failedExchangeEvents unit)[k]? = some events) :
    (Link.exchange unit { l with turns := failingTurns k }).2.txLog = l.txLog ++ events := by
  match k, h with
  | 0, h => cases h; rfl
  | 1, h | 2, h | 3, h =>
    cases h
    simp [failingTurns, Link.exchange, Link.clearRx, Link.write, Link.flush, Link.readByte, Link.takeTurn,
      List.replicate_succ]

/-- The peer's turns that make the read of an exchange give `r` (20_memory.md R44): an answer, silence, or a
failure. -/
def turnsFor : ReadResult → List LinkTurn
  | .byte b => answerTurns b
  | .timeout => List.replicate 4 ⟨[], .ok⟩
  | .ioError => failingTurns 3

theorem Link.exchange_turnsFor (unit : List Byte) (l : Link) (r : ReadResult) :
    (Link.exchange unit { l with turns := turnsFor r }).1 = r := by
  cases r <;> rfl

/-- Settles O26: by the scripts of an answer, of silence and of each failure. -/
theorem peerIsUnconstrained : Obligations.PeerIsUnconstrained := by
  unfold Obligations.PeerIsUnconstrained
  refine fun unit l => ⟨fun r => ⟨turnsFor r, l.exchange_turnsFor unit r⟩, fun events he => ?_⟩
  obtain ⟨k, hk⟩ := List.mem_iff_getElem?.1 he
  exact ⟨failingTurns k, l.exchange_failingTurns unit hk⟩

/-! ## Stale bytes -/

/-- What RXBUF held reaches RXBUF alone when the peer takes its turn. -/
theorem Link.takeTurn_withRx (rx : List Byte) (l : Link) :
    ∃ rx', Link.takeTurn { l with rxbuf := rx } = (l.takeTurn.1, { l.takeTurn.2 with rxbuf := rx' }) := by
  unfold Link.takeTurn
  cases l.turns <;> exact ⟨_, rfl⟩

/-- A clear that succeeds leaves nothing of what RXBUF held; one that fails, nothing but in RXBUF (20_memory.md R37,
R43). -/
theorem Link.clearRx_withRx (rx : List Byte) (l : Link) :
    (l.clearRx.1 = .ok ∧ Link.clearRx { l with rxbuf := rx } = l.clearRx) ∨
    (l.clearRx.1 = .ioError ∧
      ∃ rx', Link.clearRx { l with rxbuf := rx } = (.ioError, { l.clearRx.2 with rxbuf := rx' })) := by
  obtain ⟨rx', h⟩ := l.takeTurn_withRx rx
  unfold Link.clearRx
  rw [h]
  rcases l.takeTurn with ⟨_ | _, m⟩
  · exact .inl ⟨rfl, rfl⟩
  · exact .inr ⟨rfl, _, rfl⟩

/-- After its clear an exchange goes by what the clear left. -/
theorem Link.exchange_congr {unit : List Byte} {l m : Link} (h : l.clearRx = m.clearRx) :
    l.exchange unit = m.exchange unit := by
  unfold Link.exchange
  rw [h]

/-- A clear that fails is the whole exchange (60_exceptions.md R152). -/
theorem Link.exchange_of_clearRx_failed {unit : List Byte} {l m : Link} (h : l.clearRx = (.ioError, m)) :
    l.exchange unit = (.ioError, m) := by
  unfold Link.exchange
  rw [h]

/-- Settles O27: by whether the clear succeeds. -/
theorem staleBytesCannotMatter : Obligations.StaleBytesCannotMatter := by
  unfold Obligations.StaleBytesCannotMatter
  intro unit stale l
  rcases l.clearRx_withRx stale with ⟨-, h⟩ | ⟨hfail, rx, h⟩
  · have hsame := Link.exchange_congr (unit := unit) h
    exact ⟨by rw [hsame], by rw [hsame], fun _ => hsame⟩
  · have hplain : l.exchange unit = (.ioError, l.clearRx.2) := Link.exchange_of_clearRx_failed (Prod.ext hfail rfl)
    have hstained := Link.exchange_of_clearRx_failed (unit := unit) h
    refine ⟨by rw [hstained, hplain], by rw [hstained, hplain], fun hok => ?_⟩
    rw [hfail] at hok
    cases hok

/-! ## The frame buffer -/

/-- Settles O51: the frame buffer is in order after each elementary action, and every operation is such actions. -/
theorem execKeepsFrameBuffer : Obligations.ExecKeepsFrameBuffer := by
  unfold Obligations.ExecKeepsFrameBuffer
  intro i s t hs h
  exact (exec_actions h).frameBufferOk hs

/-- Settles O58: in SEND and EOT a step is a micro-operation other than FRM.BUILD. -/
theorem noReadWhileUnacknowledged : Obligations.NoReadWhileUnacknowledged := by
  unfold Obligations.NoReadWhileUnacknowledged
  intro s t hr hp h
  have hrun : s.phase.running = true := by rcases hp with hp | hp <;> rw [hp] <;> rfl
  have hbuild : s.phase ≠ .build := by rcases hp with hp | hp <;> simp [hp]
  rw [step_of_running hr hrun] at h
  obtain ⟨hacc, -, hrlen, heof, hfb, hsrc⟩ := microOperation_sameFrameData hbuild h
  exact ⟨hsrc, hfb, heof, hrlen, hacc⟩

/-! ## No fault -/

theorem hostOperation_ne_fault {s : State} {k : Host.Outcome State Fault Refusal} {f : Fault} (h : k ≠ .fault f) :
    hostOperation s k ≠ .fault f := by
  cases hp : s.phase.running with
  | true => rw [hostOperation_of_running hp]; simp
  | false => rwa [hostOperation_of_idle hp]

theorem readAcc_ne_fault (s : State) (f : Fault) : readAcc s ≠ .fault f := by
  cases h : s.accWritten with
  | true => rw [readAcc_of_written h]; simp
  | false => rw [readAcc_of_unwritten h]; simp

/-- A continuation that answers a next state adds no fault to the read of ACC. -/
theorem andThen_readAcc_ne_fault (s : State) (k : Half → State) (f : Fault) :
    andThen (readAcc s) (fun a => .next (k a)) ≠ (.fault f : Host.Outcome State Fault Refusal) := by
  simp [andThen_eq_fault, readAcc_ne_fault]

theorem linkUnit_ne_fault (unit : List Byte) (s : State) (f : Fault) : linkUnit unit s ≠ .fault f := by
  rcases linkUnit_cases unit s with ⟨-, h⟩ | ⟨-, h⟩ | ⟨-, -, h⟩ <;> rw [h]
  · exact microOperation_ne_fault s f
  · exact microOperation_ne_fault _ f
  · simp

theorem dataUnitOnLink_ne_fault (unit : List Byte) (s : State) (f : Fault) : dataUnitOnLink unit s ≠ .fault f := by
  cases hp : s.phase.running with
  | true => rw [dataUnitOnLink, if_pos hp]; exact linkUnit_ne_fault unit s f
  | false => rw [dataUnitOnLink_of_idle hp]; simp

theorem execXferStart_ne_fault (img : List Byte) (s : State) (f : Fault) : execXferStart img s ≠ .fault f :=
  hostOperation_ne_fault (by split <;> simp)

/-- A micro-operation as an operation, refused outside the phase `p` that selects it. -/
theorem selected_ne_fault {s : State} {p : Phase} {r : Refusal} {o : Host.Outcome State Fault Refusal} {f : Fault}
    (h : s.phase = p → o ≠ .fault f) : (if s.phase = p then o else .refused r) ≠ .fault f := by
  by_cases hp : s.phase = p
  · rw [if_pos hp]; exact h hp
  · rw [if_neg hp]; simp

/-- No operation makes an index outside the frame buffer (20_memory.md R35). -/
theorem exec_ne_fault (i : Instr) (s : State) (f : Fault) : exec i s ≠ .fault f := by
  have hmicro := microOperation_ne_fault s f
  cases i with
  | magic128 => exact dataUnitOnLink_ne_fault _ s f
  | magic1k => exact dataUnitOnLink_ne_fault _ s f
  | eot => exact linkUnit_ne_fault _ s f
  | ack => exact linkUnit_ne_fault _ s f
  | nak => exact linkUnit_ne_fault _ s f
  | can => exact linkUnit_ne_fault _ s f
  | crcreq => exact linkUnit_ne_fault _ s f
  | crcClr => exact hostOperation_ne_fault (by simp)
  | crcUpd => exact hostOperation_ne_fault (andThen_readAcc_ne_fault s _ f)
  | crcRd => exact hostOperation_ne_fault (andThen_readAcc_ne_fault s _ f)
  | crcBlk => exact hostOperation_ne_fault (by simp)
  | frmChk => exact hostOperation_ne_fault (by simp)
  | rspDec => simp [exec, execRspDec]
  | xferStart img => exact execXferStart_ne_fault img s f
  | xferRun img =>
    intro h
    rcases andThen_eq_fault.1 h with h | ⟨u, -, h⟩
    · exact execXferStart_ne_fault img s f h
    · exact runUntil_ne_fault _ _ u f h
  | frmBuild => exact selected_ne_fault fun hp => by simpa [microOperation, hp] using hmicro
  | frmSend => exact selected_ne_fault fun hp => by simpa [microOperation, hp] using hmicro
  | eotSend => exact selected_ne_fault fun hp => by simpa [microOperation, hp] using hmicro
  | frmSendretry => exact selected_ne_fault fun _ => runUntil_ne_fault _ 16 s f

/-- Settles O54: whatever is fetched, no operation faults. -/
theorem noStepFaults : Obligations.NoStepFaults := by
  unfold Obligations.NoStepFaults
  intro s f
  unfold step
  cases fetch s with
  | run i t => exact exec_ne_fault i t f
  | reset | wait | arrival | reject => simp

/-! ## The units written -/

/-- The one write among the events of an exchange is of its unit. -/
theorem eq_of_write_mem_exchangeEvents {unit bytes : List Byte} {x : ReadResult} {r : IoResult}
    (h : .write bytes r ∈ exchangeEvents unit x) : bytes = unit := by
  have hw : bytes = unit ∧ r = .ok := by simpa [exchangeEvents] using h
  exact hw.1

theorem eq_of_write_mem_failedExchangeEvents {unit bytes : List Byte} {events : List LinkEvent} {r : IoResult}
    (he : events ∈ failedExchangeEvents unit) (h : .write bytes r ∈ events) : bytes = unit := by
  have hw : .write bytes r ∈ (failedExchangeEvents unit).flatten := List.mem_flatten_of_mem he h
  have hcases : bytes = unit ∧ (r = .ioError ∨ r = .ok) := by
    simpa [failedExchangeEvents, and_or_left] using hw
  exact hcases.1

/-- Every write that an exchange adds to TXLOG is of its unit. -/
theorem Link.mem_txLog_exchange {unit bytes : List Byte} {r : IoResult} {l : Link}
    (h : .write bytes r ∈ (l.exchange unit).2.txLog) : .write bytes r ∈ l.txLog ∨ bytes = unit := by
  by_cases hr : (l.exchange unit).1 = .ioError
  · obtain ⟨events, hmem, hlog⟩ := Link.exchange_of_ioError hr
    rw [hlog, List.mem_append] at h
    exact h.imp_right (eq_of_write_mem_failedExchangeEvents hmem)
  · obtain ⟨hlog, -⟩ := Link.exchange_of_ne_ioError hr
    rw [hlog, List.mem_append] at h
    exact h.imp_right eq_of_write_mem_exchangeEvents

theorem readFrameBytes_length {s : State} {is : List Nat} {bytes : List Byte}
    (h : readFrameBytes s is = .next bytes) : bytes.length = is.length := by
  induction is generalizing bytes with
  | nil => cases h; rfl
  | cons i is ih =>
    obtain ⟨v, -, h⟩ := andThen_eq_next.1 h
    obtain ⟨vs, hvs, h⟩ := andThen_eq_next.1 h
    cases h
    simp [ih hvs]

/-- The frame that is read is the whole frame (20_memory.md R34). -/
theorem readFrame_length {s : State} {bytes : List Byte} (h : readFrame s = .next bytes) :
    bytes.length = frameLen s.cfg.mode :=
  (readFrameBytes_length h).trans List.length_range

/-- A micro-operation writes nothing but the EOT byte or a whole frame (20_memory.md R37). -/
theorem microOperation_writes {s t : State} (h : microOperation s = .next t) {bytes : List Byte} {r : IoResult}
    (hw : .write bytes r ∈ t.link.txLog) :
    .write bytes r ∈ s.link.txLog ∨ bytes = [eotByte] ∨ bytes.length = frameLen s.cfg.mode := by
  unfold microOperation at h
  cases hp : s.phase <;> simp only [hp] at h
  case build =>
    rcases buildFrame_cases s with ⟨_, _, h'⟩ | ⟨_, _, _, h'⟩ <;> rw [h'] at h <;> cases h <;> exact .inl hw
  case send =>
    rcases sendFrame_cases s with ⟨_, _, h'⟩ | ⟨unit, hunit, h'⟩ <;> rw [h'] at h <;> cases h
    rw [frameAnswer_link] at hw
    exact (Link.mem_txLog_exchange hw).imp_right fun e => .inr (by rw [e]; exact readFrame_length hunit)
  case eot =>
    rw [sendEot_eq] at h; cases h
    rw [eotAnswer_link] at hw
    exact (Link.mem_txLog_exchange hw).imp_right .inl
  all_goals cases h; exact .inl hw

/-- A request served writes nothing on the link and leaves the parameters. -/
theorem Served.txLog_cfg {s t : State} (h : Served s t) : t.link.txLog = s.link.txLog ∧ t.cfg = s.cfg := by
  cases h <;> exact ⟨rfl, rfl⟩

/-- Settles O53: a reset empties TXLOG, a micro-operation adds units only, and a request served adds nothing. -/
theorem stepKeepsUnitsOnly : Obligations.StepKeepsUnitsOnly := by
  unfold Obligations.StepKeepsUnitsOnly
  intro s t hs h
  cases hr : s.resetReq with
  | true =>
    rw [step_of_resetReq hr] at h
    cases h
    simp [UnitsOnly]
  | false =>
    rcases step_cases hr h with ⟨-, hm⟩ | ⟨-, hserved⟩
    · obtain ⟨-, -, hcfg⟩ := microOperation_keeps hm
      rintro _ he bytes r rfl
      rw [hcfg]
      exact (microOperation_writes hm he).elim (fun hold => hs _ hold bytes r rfl) id
    · obtain ⟨hlog, hcfg⟩ := hserved.txLog_cfg
      unfold UnitsOnly
      rwa [hlog, hcfg]

end Sys2Proof.Machine

/-! PROOFS. The encodings (30_encoding.md): the decoder undoes the encoder and the encoder the decoder, the first
bytes that name a unit, the complement field. -/

namespace Sys2Proof.Machine

/-! ## Data units -/

/-- The data unit with the magic byte of a mode, as an operation (30_encoding.md R50, R52). -/
def dataInstr : Mode → Byte → Byte → List Byte → Byte → Byte → Instr
  | .k1 => .magic1k
  | .b128 => .magic128

theorem encode_dataInstr (m : Mode) (id cmpl : Byte) (payload : List Byte) (hi lo : Byte) :
    encode (dataInstr m id cmpl payload hi lo) = some (.wire (dataUnit (magicByte m) id cmpl payload hi lo)) := by
  cases m <;> rfl

theorem wellFormed_dataInstr {m : Mode} {id cmpl : Byte} {payload : List Byte} {hi lo : Byte} :
    WellFormed (dataInstr m id cmpl payload hi lo) ↔ payload.length = payloadLen m := by
  cases m <;> exact beq_iff_eq

/-- A magic byte opens a unit that the bytes after it split into; where they run out it is rejected as cut short
(30_encoding.md R52, R56). -/
theorem decodeWire_magic (m : Mode) (bs : List Byte) :
    decodeWire (magicByte m :: bs) = (splitData (payloadLen m) bs).elim (.reject (.truncatedFrame (bs.length + 1)))
      fun (id, cmpl, payload, hi, lo, rest) => .ok (dataInstr m id cmpl payload hi lo) rest := by
  cases m with
  | k1 =>
    have hne : magic1kByte ≠ magic128Byte := by decide
    rw [magicByte, decodeWire, if_neg hne, if_pos rfl, payloadLen]
    cases splitData 1024 bs <;> rfl
  | b128 =>
    rw [magicByte, decodeWire, if_pos rfl, payloadLen]
    cases splitData 128 bs <;> rfl

theorem decodeWire_magic_eq_ok {m : Mode} {bs : List Byte} {i : Instr} {rest : List Byte} :
    decodeWire (magicByte m :: bs) = .ok i rest ↔ ∃ id cmpl payload hi lo,
      splitData (payloadLen m) bs = some (id, cmpl, payload, hi, lo, rest) ∧
        i = dataInstr m id cmpl payload hi lo := by
  rw [decodeWire_magic]
  cases splitData (payloadLen m) bs with
  | none => simp
  | some x =>
    constructor
    · intro h
      cases h
      exact ⟨_, _, _, _, _, rfl, rfl⟩
    · rintro ⟨_, _, _, _, _, h, rfl⟩
      cases h
      rfl

theorem decodeWire_magic_ne_unnamed (m : Mode) (bs : List Byte) (b : Byte) :
    decodeWire (magicByte m :: bs) ≠ .reject (.unnamedSymbol b) := by
  rw [decodeWire_magic]
  cases splitData (payloadLen m) bs <;> simp

/-- The bytes of a data unit decode to it, whatever follows them. -/
theorem decodeWire_dataUnit {m : Mode} {payload : List Byte} (h : payload.length = payloadLen m)
    (id cmpl hi lo : Byte) (rest : List Byte) :
    decodeWire (dataUnit (magicByte m) id cmpl payload hi lo ++ rest) =
      .ok (dataInstr m id cmpl payload hi lo) rest :=
  decodeWire_magic_eq_ok.2 ⟨id, cmpl, payload, hi, lo, by simpa using splitData_of h, rfl⟩

/-- A data unit that is decoded is well-formed, and its bytes are those taken. -/
theorem encode_of_decodeWire_magic {m : Mode} {bs : List Byte} {i : Instr} {rest : List Byte}
    (h : decodeWire (magicByte m :: bs) = .ok i rest) :
    WellFormed i ∧ ∃ unit, encode i = some (.wire unit) ∧ magicByte m :: bs = unit ++ rest := by
  obtain ⟨id, cmpl, payload, hi, lo, hsplit, rfl⟩ := decodeWire_magic_eq_ok.1 h
  obtain ⟨hlen, hbs⟩ := splitData_some hsplit
  exact ⟨wellFormed_dataInstr.2 hlen, _, encode_dataInstr .., by simp [hbs, dataUnit]⟩

/-- A split needs the two bytes of the id, the payload and the two bytes of the CRC. -/
theorem splitData_isSome {n : Nat} {bs : List Byte} : (splitData n bs).isSome ↔ n + 4 ≤ bs.length := by
  refine ⟨fun h => ?_, fun h => ?_⟩
  · obtain ⟨x, hx⟩ := Option.isSome_iff_exists.1 h
    obtain ⟨hlen, hbs⟩ := splitData_some hx
    rw [hbs]
    simp only [List.length_cons, List.length_append]
    omega
  · match bs, h with
    | id :: cmpl :: body, h =>
      simp only [List.length_cons] at h
      have htail : 2 ≤ (body.drop n).length := by rw [List.length_drop]; omega
      match hdrop : body.drop n, htail with
      | hi :: lo :: rest, _ => simp [splitData, hdrop]

/-- A magic byte opens a unit exactly when enough bytes follow it (30_encoding.md R56). -/
theorem exists_decodeWire_magic_eq_ok {m : Mode} {bs : List Byte} :
    (∃ i rest, decodeWire (magicByte m :: bs) = .ok i rest) ↔ payloadLen m + 4 ≤ bs.length := by
  rw [← splitData_isSome, Option.isSome_iff_exists]
  simp only [decodeWire_magic_eq_ok]
  exact ⟨fun ⟨_, rest, id, cmpl, payload, hi, lo, h, _⟩ => ⟨_, h⟩,
    fun ⟨(id, cmpl, payload, hi, lo, rest), h⟩ => ⟨_, rest, id, cmpl, payload, hi, lo, h, rfl⟩⟩

/-! ## Control symbols -/

/-- A first byte that is no magic byte is a unit by itself, or names none (30_encoding.md R51, R52). -/
theorem decodeWire_of_ne_magic {b : Byte} (hb : ∀ m, b ≠ magicByte m) (bs : List Byte) :
    (unitLength b = some 1 ∧
      ∃ i, decodeWire (b :: bs) = .ok i bs ∧ WellFormed i ∧ encode i = some (.wire [b])) ∨
    (unitLength b = none ∧ decodeWire (b :: bs) = .reject (.unnamedSymbol b)) := by
  have h128 : b ≠ magic128Byte := hb .b128
  have h1k : b ≠ magic1kByte := hb .k1
  by_cases h : b ∈ [eotByte, ackByte, nakByte, canByte, crcreqByte]
  · left
    simp only [List.mem_cons, List.not_mem_nil, or_false] at h
    rcases h with rfl | rfl | rfl | rfl | rfl <;> exact ⟨rfl, _, rfl, rfl, rfl⟩
  · right
    simp only [List.mem_cons, List.not_mem_nil, or_false, not_or] at h
    simp [decodeWire, unitLength, h128, h1k, h]

theorem unitLength_magicByte (m : Mode) : unitLength (magicByte m) = some (frameLen m) := by cases m <;> rfl

theorem unitLength_eq_none {b : Byte} : unitLength b = none ↔
    b ≠ 0x01 ∧ b ≠ 0x02 ∧ b ≠ 0x04 ∧ b ≠ 0x06 ∧ b ≠ 0x15 ∧ b ≠ 0x18 ∧ b ≠ 0x43 := by
  simp only [unitLength, ite_eq_iff, reduceCtorEq, and_false, false_or, and_true, not_or]
  rfl

/-- A first byte is rejected as unnamed exactly when it opens a unit of no length (30_encoding.md R52, R56). -/
theorem decodeWire_eq_unnamed {b : Byte} {bs : List Byte} :
    decodeWire (b :: bs) = .reject (.unnamedSymbol b) ↔ unitLength b = none := by
  by_cases hb : ∃ m, b = magicByte m
  · obtain ⟨m, rfl⟩ := hb
    simp [decodeWire_magic_ne_unnamed, unitLength_magicByte]
  · rcases decodeWire_of_ne_magic (not_exists.1 hb) bs with ⟨hlen, i, hok, -⟩ | ⟨hlen, hreject⟩
    · simp [hok, hlen]
    · simp [hreject, hlen]

/-! ## Encoding, then decoding -/

/-- The bytes of a wire unit decode to it, whatever follows them (30_encoding.md R50, R51). -/
theorem decode_wire_of_encode {i : Instr} (hi : WellFormed i) {unit : List Byte}
    (h : encode i = some (.wire unit)) (rest : List Byte) : decode (.wire (unit ++ rest)) = .ok i rest := by
  cases i with
  | magic128 id cmpl payload hi' lo =>
    cases h
    exact decodeWire_dataUnit (m := .b128) (wellFormed_dataInstr.1 hi) ..
  | magic1k id cmpl payload hi' lo =>
    cases h
    exact decodeWire_dataUnit (m := .k1) (wellFormed_dataInstr.1 hi) ..
  | eot | ack | nak | can | crcreq => cases h; rfl
  | _ => cases h

theorem decode_cmd_of_encode {i : Instr} {code : BitVec 4} {operand : Byte} {seq : List Byte}
    (h : encode i = some (.cmd code operand seq)) : decode (.cmd code operand seq) = .ok i [] := by
  cases i with
  | crcClr | crcUpd | crcRd | xferStart | frmChk => cases h; rfl
  | _ => cases h

theorem decode_phase_of_encode {i : Instr} {code : BitVec 3} (h : encode i = some (.phase code)) :
    decode (.phase code) = .ok i [] := by
  cases i with
  | frmBuild | frmSend | eotSend => cases h; rfl
  | _ => cases h

/-- Settles O7: in each of the three code spaces by the operations it has. -/
theorem decodeOfEncode : Obligations.DecodeOfEncode := by
  unfold Obligations.DecodeOfEncode
  intro i hi
  exact ⟨fun _ rest h => decode_wire_of_encode hi h rest, fun _ _ _ h => decode_cmd_of_encode h,
    fun _ h => decode_phase_of_encode h⟩

/-- Settles O10: the data unit by its format, the other words by evaluation. -/
theorem specWordsDecode : Obligations.SpecWordsDecode := by
  unfold Obligations.SpecWordsDecode
  exact ⟨rfl, rfl, decodeWire_dataUnit (m := .b128) List.length_replicate 0x01 0xFE 0x12 0x34 [], rfl, rfl, rfl⟩

/-! ## Decoding, then encoding -/

/-- Settles O8: by the first byte, a magic byte or a symbol of one byte. -/
theorem encodeOfDecode : Obligations.EncodeOfDecode := by
  unfold Obligations.EncodeOfDecode
  intro bytes i rest h
  cases bytes with
  | nil => cases h
  | cons b bs =>
    by_cases hb : ∃ m, b = magicByte m
    · obtain ⟨m, rfl⟩ := hb
      exact encode_of_decodeWire_magic h
    · rcases decodeWire_of_ne_magic (not_exists.1 hb) bs with ⟨-, j, hok, hwf, henc⟩ | ⟨-, hreject⟩
      · cases hok.symm.trans h
        exact ⟨hwf, [b], henc, rfl⟩
      · cases hreject.symm.trans h

/-- Settles O9: an unnamed byte opens a unit of no length, a control symbol one of one byte, a magic byte one that
needs its bytes. -/
theorem symbolTableComplete : Obligations.SymbolTableComplete := by
  unfold Obligations.SymbolTableComplete
  exact ⟨fun _ _ => decodeWire_eq_unnamed.trans unitLength_eq_none, fun _ => ⟨rfl, rfl, rfl, rfl, rfl⟩,
    fun _ => ⟨(exists_decodeWire_magic_eq_ok (m := .b128)).symm, (exists_decodeWire_magic_eq_ok (m := .k1)).symm⟩⟩

/-! ## The complement field -/

theorem complement_toNat (id : Byte) : (complement id).toNat = 255 - id.toNat := by
  unfold complement
  bv_omega

/-- The complement field is the bitwise complement (30_encoding.md R53). -/
theorem complement_eq_xor (id : Byte) : complement id = id ^^^ 0xFF := by
  have hones : (0xFF : Byte) = BitVec.allOnes 8 := rfl
  rw [hones, BitVec.xor_allOnes, ← BitVec.toNat_inj, complement_toNat, BitVec.toNat_not]

theorem xor_eq_ones_iff {id cmpl : Byte} : id ^^^ cmpl = 0xFF ↔ cmpl = complement id := by
  rw [complement_eq_xor]
  constructor
  · intro h
    rw [← h, ← BitVec.xor_assoc, BitVec.xor_self, BitVec.zero_xor]
  · rintro rfl
    rw [← BitVec.xor_assoc, BitVec.xor_self, BitVec.zero_xor]

/-- Settles O11: by the values as numbers, and for the bitwise form by the complement as an exclusive or. -/
theorem complementAddsTo255 : Obligations.ComplementAddsTo255 := by
  unfold Obligations.ComplementAddsTo255
  refine ⟨fun id => ⟨complement_toNat id, ?_, complement_eq_xor id⟩, rfl, rfl, rfl, rfl, fun id cmpl => ⟨?_, ?_⟩⟩
  · have := complement_toNat id
    omega
  · omega
  · rw [xor_eq_ones_iff, ← complement_toNat, BitVec.toNat_inj]

end Sys2Proof.Machine

/-! PROOFS. The operation a step runs (30_encoding.md R62, R63), and the pseudo-operations as the steps of their
expansions (R66). -/

namespace Sys2Proof.Machine

/-! ## What a step runs -/

section Fetch
variable {s : State} {i : Instr} {inputs : List Code} {rest : List Byte}

theorem step_of_phase (hr : s.resetReq = false) (hp : s.phase.running = true)
    (hd : decode (.phase s.phase.code) = .ok i rest) : step s = exec i s := by
  simp [step, fetch, hr, hp, hd]

/-- With no reset requested and the engine not running, a step takes the next request. -/
theorem fetch_of_request {c : Code} (hr : s.resetReq = false) (hp : s.phase.running = false)
    (hin : s.inputs = c :: inputs) : fetch s = fetchRequest c inputs s := by
  simp [fetch, hr, hp, hin]

theorem step_of_command {code : BitVec 4} {operand : Byte} {seq : List Byte} (hr : s.resetReq = false)
    (hp : s.phase.running = false) (hin : s.inputs = .cmd code operand seq :: inputs)
    (hd : decode (.cmd code operand seq) = .ok i rest) : step s = exec i { s with inputs := inputs } := by
  simp [step, fetch_of_request hr hp hin, fetchRequest, hd]

theorem step_of_rejected_command {code : BitVec 4} {operand : Byte} {seq : List Byte} {e : DecodeError}
    (hr : s.resetReq = false) (hp : s.phase.running = false) (hin : s.inputs = .cmd code operand seq :: inputs)
    (hd : decode (.cmd code operand seq) = .reject e) : step s = .refused (.unassignedCommand code) := by
  simp [step, fetch_of_request hr hp hin, fetchRequest, hd]

theorem step_of_unit {bytes : List Byte} (hr : s.resetReq = false) (hp : s.phase.running = false)
    (hin : s.inputs = .wire bytes :: inputs) (hd : decode (.wire bytes) = .ok i rest) :
    step s = exec i { s with inputs := leftOver rest inputs } := by
  simp [step, fetch_of_request hr hp hin, fetchRequest, hd]

theorem step_of_no_request (hr : s.resetReq = false) (hp : s.phase.running = false) (hin : s.inputs = []) :
    step s = .next s := by
  simp [step, fetch, hr, hp, hin]

end Fetch

/-- Settles O4: by what the fetch finds, PHASE's micro-operation, a command or a unit. -/
theorem stepRunsDecodedOperation : Obligations.StepRunsDecodedOperation := by
  unfold Obligations.StepRunsDecodedOperation
  exact ⟨fun _ _ _ hr hp hd => step_of_phase hr hp hd,
    fun _ _ _ _ _ _ _ hr hp hin hd => step_of_command hr hp hin hd,
    fun _ _ _ _ hr hp hin hd => step_of_unit hr hp hin hd,
    fun _ _ _ _ _ _ hr hp hin hd => step_of_unit hr hp hin hd⟩

/-- Settles O5: by what each phase code decodes to. -/
theorem phaseSelectsMicroOperation : Obligations.PhaseSelectsMicroOperation := by
  unfold Obligations.PhaseSelectsMicroOperation
  intro s hr
  have hstep : ∀ i, decode (.phase s.phase.code) = .ok i [] → s.phase.running = true → step s = exec i s :=
    fun _ hd hp => step_of_phase hr hp hd
  refine ⟨fun hp => hstep .frmBuild ?_ ?_, fun hp => hstep .frmSend ?_ ?_, fun hp => hstep .eotSend ?_ ?_⟩ <;>
    rw [hp] <;> rfl

/-- Every command code has an operation or is rejected (30_encoding.md R62, R64). -/
theorem decodeCommand_cases (code : BitVec 4) (operand : Byte) (seq : List Byte) :
    (1 ≤ code.toNat ∧ code.toNat ≤ 5 ∧ ∃ i, decodeCommand code operand seq = .ok i []) ∨
    ((code = 0 ∨ 6 ≤ code.toNat) ∧ decodeCommand code operand seq = .reject (.unassignedCommand code)) := by
  by_cases h : code ∈ [(0x1 : BitVec 4), 0x2, 0x3, 0x4, 0x5]
  · left
    simp only [List.mem_cons, List.not_mem_nil, or_false] at h
    rcases h with rfl | rfl | rfl | rfl | rfl <;> exact ⟨by decide, by decide, _, rfl⟩
  · right
    simp only [List.mem_cons, List.not_mem_nil, or_false, not_or] at h
    obtain ⟨h1, h2, h3, h4, h5⟩ := h
    exact ⟨by bv_omega, by rw [decodeCommand, if_neg h1, if_neg h2, if_neg h3, if_neg h4, if_neg h5]⟩

/-- Settles O6: by the two ranges of codes, of which the hypothesis excludes one. -/
theorem unassignedCommandsRefused : Obligations.UnassignedCommandsRefused := by
  unfold Obligations.UnassignedCommandsRefused
  intro s code operand seq inputs hr hp hin
  rcases decodeCommand_cases code operand seq with ⟨hlo, hhi, i, hd⟩ | ⟨hcode, hd⟩
  · refine ⟨fun hc => ?_, fun _ => ⟨i, step_of_command hr hp hin hd⟩⟩
    exfalso
    bv_omega
  · refine ⟨fun _ => step_of_rejected_command hr hp hin hd, fun hc => ?_⟩
    exfalso
    bv_omega

/-- Settles O24: each of them tests its phase first. -/
theorem microOperationsNeedTheirPhase : Obligations.MicroOperationsNeedTheirPhase := by
  unfold Obligations.MicroOperationsNeedTheirPhase
  exact fun s => ⟨fun h => if_neg h, fun h => ⟨if_neg h, if_neg h⟩, fun h => if_neg h⟩

/-! ## The commands of the expansions, where they are accepted -/

section Accepted
variable {s : State}

/-- CRC.CLR (40_crc16.md R73). -/
theorem exec_crcClr_of_idle (hp : s.phase.running = false) :
    exec .crcClr s = .next { s with acc := 0, accWritten := true, reply := none } :=
  hostOperation_of_idle hp _

/-- CRC.UPD (40_crc16.md R74). -/
theorem exec_crcUpd_of_written (hp : s.phase.running = false) (hw : s.accWritten = true) (b : Byte) :
    exec (.crcUpd b) s = .next { s with acc := crcByte s.acc b, reply := none } := by
  rw [exec, execCrcUpd, hostOperation_of_idle hp, readAcc_of_written hw, andThen_next]

/-- CRC.RD (40_crc16.md R75). -/
theorem exec_crcRd_of_written (hp : s.phase.running = false) (hw : s.accWritten = true) :
    exec .crcRd s = .next (giveReply (.crc s.acc) s) := by
  rw [exec, execCrcRd, hostOperation_of_idle hp, readAcc_of_written hw, andThen_next]

/-- CRC.BLK (40_crc16.md R76). -/
theorem exec_crcBlk_of_idle (hp : s.phase.running = false) (bytes : List Byte) :
    exec (.crcBlk bytes) s =
      .next (giveReply (.crc (crcFrom 0 bytes)) { s with acc := crcFrom 0 bytes, accWritten := true }) :=
  hostOperation_of_idle hp _

/-- XFER.START (42_transfer_fsm.md R100). -/
theorem execXferStart_of_idle (hp : s.phase = .idle) (img : List Byte) :
    execXferStart img s = .next (startTransfer img s) := by
  rw [execXferStart, fromIdle, hostOperation_of_idle (by rw [hp]; rfl), if_pos hp]

end Accepted

/-! ## The expansions of the pseudo-operations -/

section Expansion
variable {s t : State}

/-- The first of several steps serves the command at the head of the requests. -/
theorem steps_command {i : Instr} {code : BitVec 4} {operand : Byte} {seq : List Byte} {inputs : List Code}
    (hr : s.resetReq = false) (hp : s.phase.running = false) (hd : decode (.cmd code operand seq) = .ok i [])
    (hx : exec i { s with inputs := inputs } = .next t) (k : Nat) :
    steps (k + 1) { s with inputs := .cmd code operand seq :: inputs } = steps k t := by
  have hstep : step { s with inputs := .cmd code operand seq :: inputs } = exec i { s with inputs := inputs } :=
    step_of_command (s := { s with inputs := _ }) hr hp rfl hd
  rw [steps, hstep, hx, andThen_next]

/-- The steps over CRC.UPD for each byte and CRC.RD continue the CRC over the bytes and give it to the host. -/
theorem steps_crcUpd_crcRd (bytes : List Byte) (hr : s.resetReq = false) (hp : s.phase.running = false)
    (hw : s.accWritten = true) :
    steps (bytes.length + 1) { s with inputs := bytes.map (fun b => .cmd 0x2 b []) ++ [.cmd 0x3 0 []] } =
      .next (giveReply (.crc (crcFrom s.acc bytes)) { s with inputs := [], acc := crcFrom s.acc bytes }) := by
  induction bytes generalizing s with
  | nil => exact steps_command hr hp rfl (exec_crcRd_of_written (s := { s with inputs := [] }) hp hw) 0
  | cons b bs ih =>
    have hupd := exec_crcUpd_of_written
      (s := { s with inputs := bs.map (fun b => .cmd 0x2 b []) ++ [.cmd 0x3 0 []] }) hp hw b
    exact (steps_command hr hp rfl hupd _).trans (ih (s := { s with acc := crcByte s.acc b, reply := none }) hr hp hw)

/-- While no reset is requested and no request is pending, the engine's own steps are a run of micro-operations
that ends where the engine ends. -/
theorem steps_eq_runUntil (hr : s.resetReq = false) (hin : s.inputs = []) (k : Nat) :
    steps k s = runUntil (fun u => !u.phase.running) k s := by
  induction k generalizing s with
  | zero => rfl
  | succ k ih =>
    rw [steps, runUntil]
    cases hp : s.phase.running with
    | true =>
      rw [step_of_running hr hp]
      cases hm : microOperation s with
      | next t =>
        obtain ⟨hinputs, hreq, -⟩ := microOperation_keeps hm
        exact ih (hreq.trans hr) (hinputs.trans hin)
      | fault | refused => rfl
    | false =>
      rw [step_of_no_request hr hp hin, andThen_next, ih hr hin]
      cases k <;> simp [runUntil, hp]

end Expansion

/-- Settles O21: CRC.CLR makes ACC 0 and written, and the other commands continue from there. -/
theorem crcBlockRefinesExpansion : Obligations.CrcBlockRefinesExpansion := by
  unfold Obligations.CrcBlockRefinesExpansion
  intro bytes s hp hr
  have hclr := exec_crcClr_of_idle
    (s := { s with inputs := bytes.map (fun b => .cmd 0x2 b []) ++ [.cmd 0x3 0 []] }) hp
  calc steps (bytes.length + 2) { s with inputs := expand (.crcBlk bytes) }
    _ = _ := steps_command hr hp rfl hclr (bytes.length + 1)
    _ = _ := steps_crcUpd_crcRd bytes (s := { s with acc := 0, accWritten := true, reply := none }) hr hp rfl
    _ = exec (.crcBlk bytes) { s with inputs := [] } :=
      (exec_crcBlk_of_idle (s := { s with inputs := [] }) hp bytes).symm

/-- Settles O35: XFER.START is served first, and the steps after it are XFER.RUN's run of micro-operations. -/
theorem xferRunRefinesSteps : Obligations.XferRunRefinesSteps := by
  unfold Obligations.XferRunRefinesSteps
  intro img s hp hr
  have hstart := execXferStart_of_idle (s := { s with inputs := [] }) hp img
  calc steps (transferBound s.cfg img.length + 1) { s with inputs := expand (.xferRun img) }
    _ = _ := steps_command (i := .xferStart img) hr (by rw [hp]; rfl) rfl hstart _
    _ = _ := steps_eq_runUntil (s := startTransfer img { s with inputs := [] }) hr rfl _
    _ = exec (.xferRun img) { s with inputs := [] } := by rw [exec, execXferRun, hstart, andThen_next]

end Sys2Proof.Machine

/-! PROOFS. The data units in every phase (30_encoding.md R57, R58, R61): the engine's own unit, an answer, an
arrival. -/

namespace Sys2Proof.Machine

/-! ## A unit as the answer of an exchange -/

section Answer
variable {s : State}

theorem microOperation_of_build (hp : s.phase = .build) : microOperation s = buildFrame s := by
  simp only [microOperation, hp]

theorem microOperation_of_send (hp : s.phase = .send) : microOperation s = sendFrame s := by
  simp only [microOperation, hp]

theorem microOperation_of_eot (hp : s.phase = .eot) : microOperation s = sendEot s := by
  simp only [microOperation, hp]

/-- In SEND the first byte of the answer decides, and the bytes after it stay in RXBUF (42_transfer_fsm.md R103). -/
theorem microOperation_answering_of_send {unit : List Byte} (hp : s.phase = .send) (hread : readFrame s = .next unit)
    (b : Byte) (more : List Byte) :
    microOperation { s with link := s.link.answering (b :: more) } =
      .next (frameResponse (responseOf b) { s with link := s.link.answered unit b more }) := by
  have hread' : readFrame { s with link := s.link.answering (b :: more) } = .next unit := by
    rw [← hread]
    exact readFrame_congr rfl rfl
  rw [microOperation_of_send (by exact hp), sendFrame, hread', andThen_next, Link.exchange_answering]
  rfl

/-- So it does in EOT (42_transfer_fsm.md R111). -/
theorem microOperation_answering_of_eot (hp : s.phase = .eot) (b : Byte) (more : List Byte) :
    microOperation { s with link := s.link.answering (b :: more) } =
      .next (eotResponse (responseOf b) { s with link := s.link.answered [eotByte] b more }) := by
  rw [microOperation_of_eot (by exact hp), sendEot_eq, Link.exchange_answering]
  rfl

/-- The engine's own unit is the occasion of its micro-operation. -/
theorem linkUnit_of_engineUnit {unit : List Byte} (he : engineUnit s = some unit) :
    linkUnit unit s = microOperation s := if_pos he

/-- In SEND a unit other than the frame in FB is the answer of its exchange. -/
theorem linkUnit_of_send {unit : List Byte} {b : Byte} {more : List Byte} (hp : s.phase = .send)
    (hread : readFrame s = .next unit) (hne : unit ≠ b :: more) :
    linkUnit (b :: more) s = .next (frameResponse (responseOf b) { s with link := s.link.answered unit b more }) := by
  have he : engineUnit s ≠ some (b :: more) := by simpa [engineUnit, hp, hread] using hne
  rw [linkUnit_of_answer he (.inl hp), microOperation_answering_of_send hp hread]

/-- In EOT a unit other than the byte 0x04 is the answer of its exchange. -/
theorem linkUnit_of_eot {b : Byte} {more : List Byte} (hp : s.phase = .eot) (hne : [eotByte] ≠ b :: more) :
    linkUnit (b :: more) s =
      .next (eotResponse (responseOf b) { s with link := s.link.answered [eotByte] b more }) := by
  have he : engineUnit s ≠ some (b :: more) := by simpa [engineUnit, hp] using hne
  rw [linkUnit_of_answer he (.inr hp), microOperation_answering_of_eot hp]

/-- In BUILD a unit other than the next frame reaches RXBUF. -/
theorem linkUnit_of_build {unit : List Byte} (hp : s.phase = .build)
    (hne : unit ≠ frame s.cfg.mode ((s.src.img.drop s.src.pos).take (payloadLen s.cfg.mode)) s.blk) :
    linkUnit unit s = .next (arriveBytes unit s) :=
  linkUnit_of_arrival (by simpa [engineUnit, hp] using hne.symm) (by simp [hp])

end Answer

/-- In EOT a byte other than ACK is a retry, at the ceiling the abort (42_transfer_fsm.md R113, R114). -/
theorem eotResponse_other (b : Byte) (s : State) :
    eotResponse (.other b) s =
      if s.retry = s.cfg.maxRetry then failed .transferAborted s else { s with retry := s.retry + 1 } := by
  simp only [eotResponse, retryExhausted, beq_iff_eq]
  rfl

/-! ## Data units -/

/-- A magic byte is neither ACK nor NAK (43_decoder.md R130). -/
theorem responseOf_magicByte (m : Mode) : responseOf (magicByte m) = .other (magicByte m) := by cases m <;> rfl

theorem dataUnitOnLink_of_running {s : State} (hp : s.phase.running = true) (unit : List Byte) :
    dataUnitOnLink unit s = linkUnit unit s := if_pos hp

/-- Settles O43: a data unit is checked or is a unit on the link, and there the engine's own, an answer that begins
with the magic byte, or an arrival. -/
theorem dataUnitsByPhase : Obligations.DataUnitsByPhase := by
  unfold Obligations.DataUnitsByPhase
  intro i magic more s unit hi
  obtain ⟨m, rfl, hexec⟩ : ∃ m, magic = magicByte m ∧ exec i s = dataUnitOnLink (magicByte m :: more) s := by
    obtain ⟨id, cmpl, payload, hi, lo, ⟨rfl, rfl⟩ | ⟨rfl, rfl⟩, rfl⟩ := hi
    · exact ⟨.b128, rfl, rfl⟩
    · exact ⟨.k1, rfl, rfl⟩
  have hlink (hp : s.phase.running = true) : exec i s = linkUnit (magicByte m :: more) s :=
    hexec.trans (dataUnitOnLink_of_running hp _)
  have heot (hp : s.phase = .eot) : exec i s =
      .next (eotResponse (.other (magicByte m)) { s with link := s.link.answered [eotByte] (magicByte m) more }) := by
    have hne : [eotByte] ≠ magicByte m :: more := by cases m <;> simp [eotByte, magicByte, magic128Byte, magic1kByte]
    rw [hlink (by rw [hp]; rfl), linkUnit_of_eot hp hne, responseOf_magicByte]
  refine ⟨fun hp => ?_, fun hp hown => ?_, fun hp hne => ?_, fun hp hown => ?_, fun hp hread hne => ?_,
    fun hp hretry => ?_, fun hp hretry => ?_⟩
  · rw [hexec, dataUnitOnLink_of_idle hp]
    rfl
  · rw [hlink (by rw [hp]; rfl), linkUnit_of_engineUnit (by simp [engineUnit, hp, hown])]
    exact (microOperation_of_build hp).trans (if_pos hp).symm
  · rw [hlink (by rw [hp]; rfl), linkUnit_of_build hp hne]
    rfl
  · rw [hlink (by rw [hp]; rfl), linkUnit_of_engineUnit (by simp [engineUnit, hp, hown])]
    exact (microOperation_of_send hp).trans (if_pos hp).symm
  · rw [hlink (by rw [hp]; rfl), linkUnit_of_send hp hread hne, responseOf_magicByte]
    rfl
  · rw [heot hp, eotResponse_other, if_neg hretry]
    rfl
  · rw [heot hp, eotResponse_other, if_pos hretry]
    rfl

end Sys2Proof.Machine

/-! PROOFS. The CRC generator's arithmetic (40_crc16.md R70 to R72, R77 to R80): the rounds are linear over
exclusive or, and from that the other forms of the CRC and its laws. -/

namespace Sys2Proof.Machine

/-! ## One round -/

/-- What the bit shifted out feeds back into the register (40_crc16.md R70). -/
def crcFeedback (c : Bool) : Half := if c then poly else 0

theorem crcFeedback_xor (c d : Bool) : crcFeedback (c ^^ d) = crcFeedback c ^^^ crcFeedback d := by
  cases c <;> cases d <;> decide

theorem crcRound_eq (a : Half) : crcRound a = (a <<< 1) ^^^ crcFeedback (a.getLsbD 15) := by
  unfold crcRound crcFeedback
  cases a.getLsbD 15 <;> simp

theorem crcRound_xor (a b : Half) : crcRound (a ^^^ b) = crcRound a ^^^ crcRound b := by
  simp only [crcRound_eq, BitVec.shiftLeft_xor_distrib, BitVec.getLsbD_xor, crcFeedback_xor]
  ac_rfl

theorem crcRound_of_top_clear {a : Half} (h : a.getLsbD 15 = false) : crcRound a = a <<< 1 := by
  rw [crcRound, h]
  rfl

/-- Bit 15 tells the two halves of 0 to 65535 apart. -/
theorem getLsbD_top (a : Half) : a.getLsbD 15 = decide (32768 ≤ a.toNat) :=
  (BitVec.msb_eq_getLsbD_last a).symm.trans (BitVec.msb_eq_decide a)

/-- Settles O12: bit 15 is the test on the value, and the shift doubles it modulo 65536. -/
theorem crcRoundArithmetic : Obligations.CrcRoundArithmetic := by
  unfold Obligations.CrcRoundArithmetic
  refine ⟨fun a => ?_, by decide⟩
  have hshift : (a <<< 1).toNat = 2 * a.toNat % 65536 := by
    rw [BitVec.toNat_shiftLeft, Nat.shiftLeft_eq, Nat.mul_comm]
  have ha := a.isLt
  rw [crcRound_eq, getLsbD_top, BitVec.toNat_xor, hshift]
  by_cases h : 32768 ≤ a.toNat
  · have hmod : 2 * a.toNat % 65536 = 2 * a.toNat - 65536 := by omega
    simp [h, hmod, crcFeedback, poly]
  · have hmod : 2 * a.toNat % 65536 = 2 * a.toNat := by omega
    simp [h, hmod, crcFeedback]

/-! ## The rounds of a byte -/

theorem crcRounds_xor (k : Nat) (a b : Half) : crcRounds k (a ^^^ b) = crcRounds k a ^^^ crcRounds k b := by
  induction k generalizing a b with
  | zero => rfl
  | succ k ih => simp only [crcRounds, crcRound_xor, ih]

/-- While no bit set is shifted out the rounds only shift. -/
theorem crcRounds_of_top_clear {k : Nat} {a : Half} (h : ∀ i, 16 - k ≤ i → a.getLsbD i = false) :
    crcRounds k a = a <<< k := by
  induction k generalizing a with
  | zero => simp [crcRounds]
  | succ k ih =>
    have hnext : ∀ i, 16 - k ≤ i → (a <<< 1).getLsbD i = false := by
      intro i hi
      simp [BitVec.getLsbD_shiftLeft, h (i - 1) (by omega)]
    rw [crcRounds, crcRound_of_top_clear (h 15 (by omega)), ih hnext, ← BitVec.shiftLeft_add, Nat.add_comm]

theorem crcByte_xor (a b : Half) (x y : Byte) : crcByte (a ^^^ b) (x ^^^ y) = crcByte a x ^^^ crcByte b y := by
  unfold crcByte
  rw [← crcRounds_xor, BitVec.zeroExtend, BitVec.setWidth_xor, BitVec.shiftLeft_xor_distrib]
  congr 1
  ac_rfl

theorem crcByte_zero : crcByte 0#16 0#8 = 0#16 := by decide

theorem lo8_toNat (a : Half) : (lo8 a).toNat = a.toNat % 256 := by simp [lo8]

theorem hi8_toNat (a : Half) : (hi8 a).toNat = a.toNat / 256 := by
  have ha := a.isLt
  rw [hi8, BitVec.extractLsb'_toNat, Nat.shiftRight_eq_div_pow]
  omega

theorem lo8_shiftLeft (a : Half) : (lo8 a).zeroExtend 16 <<< 8 = a <<< 8 := by
  simp only [← BitVec.toNat_inj, BitVec.toNat_shiftLeft, BitVec.truncate_eq_setWidth, BitVec.toNat_setWidth,
    lo8_toNat, Nat.shiftLeft_eq]
  omega

theorem hi8_shiftLeft (a : Half) : hi8 (a <<< 8) = lo8 a := by
  simp only [← BitVec.toNat_inj, BitVec.toNat_shiftLeft, hi8_toNat, lo8_toNat, Nat.shiftLeft_eq]
  omega

theorem eq_lo8_xor_hi8 (a : Half) : a = (lo8 a).zeroExtend 16 ^^^ ((hi8 a).zeroExtend 16 <<< 8) := by
  ext i hi
  simp only [lo8, hi8, BitVec.getElem_xor, BitVec.getElem_shiftLeft, BitVec.truncate_eq_setWidth,
    BitVec.getElem_setWidth, BitVec.getLsbD_extractLsb']
  by_cases h : i < 8
  · simp [h, BitVec.getLsbD_eq_getElem hi]
  · have hlow : i - 8 < 8 := by omega
    have hbit : 8 + (i - 8) = i := by omega
    simp [h, hlow, hbit, hi]

/-- Without an input byte the low byte of the register only moves up (40_crc16.md R79). -/
theorem crcByte_lo8 (a : Half) : crcByte ((lo8 a).zeroExtend 16) 0#8 = a <<< 8 := by
  have hlow : ∀ i, 16 - 8 ≤ i → ((lo8 a).zeroExtend 16).getLsbD i = false := by
    intro i hi
    simp [BitVec.getLsbD_of_ge (lo8 a) i hi]
  have hzero : (lo8 a).zeroExtend 16 ^^^ ((0#8).zeroExtend 16 <<< 8) = (lo8 a).zeroExtend 16 := by simp
  rw [crcByte, hzero, crcRounds_of_top_clear hlow, lo8_shiftLeft]

/-! ## The other forms of the CRC -/

/-- The high byte of the register and the input byte meet in bits 15:8. -/
theorem crcByte_hi8 (a : Half) (b : Byte) : crcByte ((hi8 a).zeroExtend 16 <<< 8) b = crcByte 0 (hi8 a ^^^ b) := by
  simp [crcByte, BitVec.setWidth_xor, BitVec.shiftLeft_xor_distrib]

/-- The table form (40_crc16.md R79): by linearity the low byte of the register splits from the rest. -/
theorem crcByte_eq_table (a : Half) (b : Byte) : crcByte a b = (a <<< 8) ^^^ crcByte 0 (hi8 a ^^^ b) := by
  calc crcByte a b
    _ = crcByte ((lo8 a).zeroExtend 16 ^^^ ((hi8 a).zeroExtend 16 <<< 8)) (0#8 ^^^ b) := by
      rw [← eq_lo8_xor_hi8, BitVec.zero_xor]
    _ = (a <<< 8) ^^^ crcByte 0 (hi8 a ^^^ b) := by rw [crcByte_xor, crcByte_lo8, crcByte_hi8]

/-- Settles O14: the table form is `crcByte_eq_table`. -/
theorem crcTableFormAgrees : Obligations.CrcTableFormAgrees := by
  unfold Obligations.CrcTableFormAgrees
  exact crcByte_eq_table

/-- One step of the bit-serial form, on bit `k` of the input byte (40_crc16.md R78). -/
def crcSerialStep (b : Byte) (a : Half) (k : Nat) : Half :=
  if a.getLsbD 15 != b.getLsbD k then (a <<< 1) ^^^ poly else a <<< 1

/-- A serial step is a round on a register that the waiting bits `r` have already entered, after which they leave
it again. -/
theorem crcSerialStep_eq {b : Byte} {k : Nat} {r : Half} (h : r.getLsbD 15 = b.getLsbD k) (a : Half) :
    crcSerialStep b a k = crcRound (a ^^^ r) ^^^ (r <<< 1) := by
  have hout : crcRound r ^^^ (r <<< 1) = crcFeedback (r.getLsbD 15) := by
    rw [crcRound_eq, BitVec.xor_comm, ← BitVec.xor_assoc, BitVec.xor_self, BitVec.zero_xor]
  calc crcSerialStep b a k
    _ = (a <<< 1) ^^^ crcFeedback (a.getLsbD 15 ^^ r.getLsbD 15) := by
      rw [crcSerialStep, h, crcFeedback, Bool.bne_eq_xor]
      split <;> simp
    _ = crcRound a ^^^ (crcRound r ^^^ (r <<< 1)) := by
      rw [crcFeedback_xor, ← BitVec.xor_assoc, ← crcRound_eq, hout]
    _ = crcRound (a ^^^ r) ^^^ (r <<< 1) := by rw [crcRound_xor, BitVec.xor_assoc]

/-- Feeding the low `n` bits of `b` is `n` rounds with these bits on top of the register. -/
theorem foldl_crcSerialStep (b : Byte) {n : Nat} (hn : n ≤ 16) (a : Half) :
    (List.range n).reverse.foldl (crcSerialStep b) a = crcRounds n (a ^^^ (b.zeroExtend 16 <<< (16 - n))) := by
  induction n generalizing a with
  | zero => simp [crcRounds]
  | succ n ih =>
    have htop : (b.zeroExtend 16 <<< (16 - (n + 1))).getLsbD 15 = b.getLsbD n := by
      have hbit : 15 - (16 - (n + 1)) = n := by omega
      have hle : ¬ 15 < 16 - (n + 1) := by omega
      have hlt : n < 16 := by omega
      simp only [BitVec.getLsbD_shiftLeft, BitVec.truncate_eq_setWidth, BitVec.getLsbD_setWidth, hbit, hle]
      simp [hlt]
    have hshift : b.zeroExtend 16 <<< (16 - n) = b.zeroExtend 16 <<< (16 - (n + 1)) <<< 1 := by
      rw [← BitVec.shiftLeft_add]
      congr 1
      omega
    rw [List.range_succ, List.reverse_concat, List.foldl_cons, ih (by omega), crcSerialStep_eq htop, hshift,
      BitVec.xor_assoc, BitVec.xor_self, BitVec.xor_zero, crcRounds]

/-- Settles O13: eight serial steps are eight rounds with the whole byte on top of the register. -/
theorem crcSerialFormAgrees : Obligations.CrcSerialFormAgrees := by
  unfold Obligations.CrcSerialFormAgrees
  exact fun a b => (foldl_crcSerialStep b (n := 8) (by decide) a).symm

theorem truncate_crcRoundWide (a : BitVec 32) : (crcRoundWide a).truncate 16 = crcRound (a.truncate 16) := by
  have htop : (a.truncate 16).getLsbD 15 = a.getLsbD 15 := by simp
  rw [crcRoundWide, crcRound, htop]
  split <;> simp [BitVec.setWidth_xor, BitVec.setWidth_shiftLeft_of_le, poly]

theorem truncate_crcRoundsWide (k : Nat) (a : BitVec 32) :
    (crcRoundsWide k a).truncate 16 = crcRounds k (a.truncate 16) := by
  induction k generalizing a with
  | zero => rfl
  | succ k ih => rw [crcRoundsWide, ih, truncate_crcRoundWide, crcRounds]

/-- The low 16 bits are those of the narrow register after every byte (40_crc16.md R77). -/
theorem truncate_crcWide_byte (a : BitVec 32) (b : Byte) :
    crcByte (a.truncate 16) b = (crcRoundsWide 8 (a ^^^ (b.zeroExtend 32 <<< 8))).truncate 16 := by
  rw [truncate_crcRoundsWide, crcByte]
  simp [BitVec.setWidth_xor, BitVec.setWidth_shiftLeft_of_le]

/-- Settles O15: truncation passes through every byte of the fold. -/
theorem crcWideAccumulatorAgrees : Obligations.CrcWideAccumulatorAgrees := by
  unfold Obligations.CrcWideAccumulatorAgrees
  intro s
  exact (List.foldl_hom (BitVec.truncate 16) truncate_crcWide_byte).symm

/-! ## The laws -/

theorem crcFrom_append (a : Half) (s t : List Byte) : crcFrom a (s ++ t) = crcFrom (crcFrom a s) t :=
  List.foldl_append

theorem crcFrom_zeros (k : Nat) : crcFrom 0 (List.replicate k 0) = 0 := by
  induction k with
  | zero => rfl
  | succ k ih =>
    rw [List.replicate_succ]
    exact (congrArg (fun a => crcFrom a (List.replicate k 0)) crcByte_zero).trans ih

theorem crcFrom_zipWith_xor (a b : Half) {s t : List Byte} (h : s.length = t.length) :
    crcFrom (a ^^^ b) (List.zipWith (fun x y => x ^^^ y) s t) = crcFrom a s ^^^ crcFrom b t := by
  induction s generalizing a b t with
  | nil => cases t with
    | nil => rfl
    | cons => cases h
  | cons x s ih => cases t with
    | nil => cases h
    | cons y t =>
      have hstep := ih (crcByte a x) (crcByte b y) (Nat.succ.inj h)
      rwa [← crcByte_xor] at hstep

/-- A register's own two bytes, high byte first, clear it (40_crc16.md R80 (c)). -/
theorem crcFrom_own_bytes (a : Half) : crcFrom a [hi8 a, lo8 a] = 0 := by
  have hhi : crcByte a (hi8 a) = a <<< 8 := by
    rw [crcByte_eq_table, BitVec.xor_self]
    exact (congrArg _ crcByte_zero).trans BitVec.xor_zero
  calc crcFrom a [hi8 a, lo8 a]
    _ = crcByte (a <<< 8) (lo8 a) := by rw [← hhi]; rfl
    _ = (a <<< 8 <<< 8) ^^^ crcByte 0 (lo8 a ^^^ lo8 a) := by rw [crcByte_eq_table, hi8_shiftLeft]
    _ = 0 := by
      rw [← BitVec.shiftLeft_add, BitVec.shiftLeft_eq_zero (by decide), BitVec.xor_self, BitVec.zero_xor]
      exact crcByte_zero

/-- CRC.RD leaves ACC alone (40_crc16.md R75): it has no build and no write of ACC among its actions. -/
theorem exec_crcRd_acc {s t : State} (h : exec .crcRd s = .next t) : t.acc = s.acc := by
  obtain ⟨hacc, -⟩ := (exec_actions h).sameFrameData (by simp [mayStore]) (by simp [isHostWrite])
  exact hacc

/-- Settles O16: each law by its lemma about the CRC continued from any register. -/
theorem crcLaws : Obligations.CrcLaws := by
  unfold Obligations.CrcLaws
  refine ⟨fun k s => ?_, fun s t h => ?_, fun s => ?_, fun s t => crcFrom_append 0 s t, fun _ _ => exec_crcRd_acc⟩
  · exact (crcFrom_append 0 _ s).trans (congrArg (fun a => crcFrom a s) (crcFrom_zeros k))
  · exact crcFrom_zipWith_xor 0 0 h
  · exact (crcFrom_append 0 s _).trans (crcFrom_own_bytes (crc16 s))

end Sys2Proof.Machine

/-! PROOFS. The operations of the CRC generator (40_crc16.md R73 to R76), and the frame of the operations that the
host issues beside a transfer (R84; 43_decoder.md R132, R143). -/

namespace Sys2Proof.Machine

/-! ## The frame -/

/-- Only ACC and the reply port may differ. -/
def SameButAccReply (s t : State) : Prop :=
  ∃ a w r, t = { s with acc := a, accWritten := w, reply := r }

/-- The generator's operations and the decoders write ACC and the reply port at most. -/
theorem exec_sameButAccReply {i : Instr} {s t : State} (h : exec i s = .next t)
    (hi : i = .crcClr ∨ (∃ b, i = .crcUpd b) ∨ i = .crcRd ∨ (∃ bytes, i = .crcBlk bytes) ∨
      (∃ f, i = .frmChk f) ∨ (∃ b, i = .rspDec b)) : SameButAccReply s t := by
  rcases hi with rfl | ⟨b, rfl⟩ | rfl | ⟨bytes, rfl⟩ | ⟨f, rfl⟩ | ⟨b, rfl⟩
  · cases (hostOperation_eq_next.1 h).2; exact ⟨_, _, _, rfl⟩
  · obtain ⟨a, -, h⟩ := andThen_eq_next.1 (hostOperation_eq_next.1 h).2
    cases h; exact ⟨_, _, _, rfl⟩
  · obtain ⟨a, -, h⟩ := andThen_eq_next.1 (hostOperation_eq_next.1 h).2
    cases h; exact ⟨_, _, _, rfl⟩
  · cases (hostOperation_eq_next.1 h).2; exact ⟨_, _, _, rfl⟩
  · cases (hostOperation_eq_next.1 h).2; exact ⟨_, _, _, rfl⟩
  · cases h; exact ⟨_, _, _, rfl⟩

/-- Settles O46: ACC and the reply port are all these operations write, and the decoders and CRC.RD have no write
of ACC among their actions. -/
theorem hostOperationsFrame : Obligations.HostOperationsFrame := by
  unfold Obligations.HostOperationsFrame
  intro i s t h
  refine ⟨fun hi => ?_, fun hi => ?_⟩
  · obtain ⟨a, w, r, rfl⟩ := exec_sameButAccReply h hi
    exact ⟨rfl, rfl, rfl, rfl, rfl, rfl, rfl, rfl, rfl, rfl, rfl⟩
  · have hkind : mayStore i s = false ∧ isHostWrite i = false := by
      rcases hi with rfl | ⟨f, rfl⟩ | ⟨b, rfl⟩ <;> exact ⟨rfl, rfl⟩
    obtain ⟨hacc, hwritten, -⟩ := (exec_actions h).sameFrameData (by simp [hkind.1]) (by simp [hkind.2])
    exact ⟨hacc, hwritten⟩

/-! ## The operations of the generator -/

section Refused
variable {s : State}

theorem exec_crcUpd_of_unwritten (hp : s.phase.running = false) (hw : s.accWritten = false) (b : Byte) :
    exec (.crcUpd b) s = .refused .accUnwritten := by
  rw [exec, execCrcUpd, hostOperation_of_idle hp, readAcc_of_unwritten hw, andThen_refused]

theorem exec_crcRd_of_unwritten (hp : s.phase.running = false) (hw : s.accWritten = false) :
    exec .crcRd s = .refused .accUnwritten := by
  rw [exec, execCrcRd, hostOperation_of_idle hp, readAcc_of_unwritten hw, andThen_refused]

end Refused

/-- Settles O17: by the condition it tests on the engine. -/
theorem crcClearClears : Obligations.CrcClearClears := by
  unfold Obligations.CrcClearClears
  exact ⟨fun _ _ => rfl, fun _ => ⟨exec_crcClr_of_idle, fun hp => hostOperation_of_running hp _⟩⟩

/-- Settles O18: the corner cases by evaluation, the operation by the condition it tests on the engine and on ACC. -/
theorem crcUpdateTakesByte : Obligations.CrcUpdateTakesByte := by
  unfold Obligations.CrcUpdateTakesByte
  exact ⟨fun _ _ => rfl, by decide, by decide, by decide, by decide, by decide, fun b _ =>
    ⟨fun hp hw => exec_crcUpd_of_written hp hw b, fun hp hw => exec_crcUpd_of_unwritten hp hw b,
      fun hp => hostOperation_of_running hp _⟩⟩

/-- Settles O19: by the condition it tests on the engine and on ACC. -/
theorem crcReadReturnsAcc : Obligations.CrcReadReturnsAcc := by
  unfold Obligations.CrcReadReturnsAcc
  exact ⟨fun _ _ => rfl, fun _ =>
    ⟨exec_crcRd_of_written, exec_crcRd_of_unwritten, fun hp => hostOperation_of_running hp _⟩⟩

/-- Settles O20: crc16 is a fold, its check value is evaluated, and CRC.BLK runs that fold from 0. -/
theorem crcBlockReturnsCrc16 : Obligations.CrcBlockReturnsCrc16 := by
  unfold Obligations.CrcBlockReturnsCrc16
  exact ⟨rfl, fun s b => crcFrom_append 0 s [b], by decide +kernel, fun bytes _ =>
    ⟨fun hp => exec_crcBlk_of_idle hp bytes, fun hp => hostOperation_of_running hp _⟩⟩

end Sys2Proof.Machine

/-! PROOFS. The frame encoder (41_frame_encoder.md R85 to R97): FRM.BUILD by the outcome of its one source read. -/

namespace Sys2Proof.Machine

section Encoder
variable {s : State}

theorem exec_frmBuild_of_build (hp : s.phase = .build) : exec .frmBuild s = buildFrame s := if_pos hp

/-- A frame's bytes written from index 0 are what the frame buffer reads as, whatever it held before
(41_frame_encoder.md R97). -/
theorem readFrame_of_writeRange {m : Memory} {bytes : List Byte} (hfb : s.fb = m.writeRange 0 bytes)
    (hl : bytes.length = frameLen s.cfg.mode) : readFrame s = .next bytes := by
  refine readFrameBytes_of_read (fun _ hi => List.mem_range.1 hi) ?_
  rw [hfb, ← hl]
  refine List.ext_getElem (by simp) fun i hi _ => ?_
  have hlt : i < bytes.length := by simpa using hi
  simp [Memory.read_writeRange_inside m (Nat.zero_le i) (by simpa using hlt), hlt]

end Encoder

/-- A scripted failure delivers nothing (20_memory.md R36). -/
theorem Source.read_of_ioError {src : Source} {turns : List IoResult} (h : src.turns = .ioError :: turns) (n : Nat) :
    (src.read n).1 = none := by
  simp [Source.read, Source.takeTurn, h]

/-- Settles O22: the read delivers the next chunk, so FRM.BUILD writes its frame over the whole of FB. -/
theorem frmBuildMakesFrame : Obligations.FrmBuildMakesFrame := by
  unfold Obligations.FrmBuildMakesFrame
  intro s turns hp hturns n chunk
  have hlen : chunk.length ≤ n := List.length_take_le ..
  have hrlen : chunk.length < 2 ^ 11 := Nat.lt_of_le_of_lt hlen (payloadLen_lt s.cfg.mode)
  have hframe : (frame s.cfg.mode chunk s.blk).length = frameLen s.cfg.mode := frame_length hlen s.blk
  rw [exec_frmBuild_of_build hp]
  rcases buildFrame_cases s with ⟨_, hread, -⟩ | ⟨_, _, hread, hbuild⟩ <;> rw [Source.read_of_ok hturns] at hread
  · cases hread
  · cases hread
    exact ⟨_, hbuild, readFrame_of_writeRange rfl hframe, hframe, by simp [chunk],
      (BitVec.toNat_ofNat ..).trans (Nat.mod_eq_of_lt hrlen), decide_eq_true_iff,
      rfl, rfl, rfl, rfl, rfl, rfl, rfl, rfl, rfl, rfl, rfl⟩

/-- Settles O23: the read delivers nothing, so FRM.BUILD raises SourceIoError from a state that differs in the source
and the unspecified registers only. -/
theorem frmBuildRaisesSourceError : Obligations.FrmBuildRaisesSourceError := by
  unfold Obligations.FrmBuildRaisesSourceError
  intro s turns hp hturns
  have hnone := Source.read_of_ioError hturns (payloadLen s.cfg.mode)
  rw [exec_frmBuild_of_build hp]
  rcases buildFrame_cases s with ⟨src, hread, hbuild⟩ | ⟨_, _, hread, -⟩ <;> rw [hread] at hnone
  · obtain ⟨himg, hpos⟩ := Source.read_none hread
    exact ⟨_, hbuild, rfl, rfl, rfl, rfl, rfl, rfl, rfl, rfl, rfl, himg, hpos⟩
  · cases hnone

end Sys2Proof.Machine

/-! PROOFS. The transfer state machine (42_transfer_fsm.md), one micro-operation at a time: what each outcome of an
exchange does (R104 to R115), where PHASE goes (R117), and that the engine always has its step (R122). -/

namespace Sys2Proof.Machine

/-! ## The outcomes of an exchange -/

theorem advance_of_more {s : State} (h : s.eof = false) :
    advance s = { s with prog := s.prog ++ [s.blk], blk := s.blk + 1, phase := .build } := by
  simp [advance, h]

theorem advance_of_last {s : State} (h : s.eof = true) :
    advance s = { s with prog := s.prog ++ [s.blk], blk := s.blk + 1, retry := 0, phase := .eot } := by
  simp [advance, h]

/-- In SEND a NAK is a retry, at the ceiling the abort (42_transfer_fsm.md R105, R106). -/
theorem frameResponse_nak (s : State) :
    frameResponse .nak s =
      if s.retry = s.cfg.maxRetry then failed .transferAborted s else { s with retry := s.retry + 1 } := by
  simp only [frameResponse, retryExhausted, beq_iff_eq]
  rfl

theorem responseOf_of_ne {b : Byte} (hack : b ≠ ackByte) (hnak : b ≠ nakByte) : responseOf b = .other b := by
  rw [responseOf, if_neg hack, if_neg hnak]

/-- In EOT every byte but ACK is taken alike (42_transfer_fsm.md R113, R114). -/
theorem eotResponse_responseOf_of_ne_ack {b : Byte} (h : b ≠ ackByte) (s : State) :
    eotResponse (responseOf b) s = eotResponse (.other b) s := by
  rw [responseOf, if_neg h]
  split <;> rfl

/-- In SEND an answer raises an error, acknowledges the frame, or counts a retry below the ceiling. -/
theorem frameAnswer_cases (r : ReadResult) (s : State) :
    (∃ x info, frameAnswer r s = raiseError x info s) ∨ frameAnswer r s = advance s ∨
    (s.retry ≠ s.cfg.maxRetry ∧ frameAnswer r s = countRetry s) := by
  cases r with
  | ioError => exact .inl ⟨_, _, rfl⟩
  | timeout => exact .inl ⟨_, _, rfl⟩
  | byte b =>
    rw [frameAnswer]
    cases responseOf b with
    | ack => exact .inr (.inl rfl)
    | other b => exact .inl ⟨_, _, rfl⟩
    | nak =>
      rw [frameResponse_nak]
      by_cases h : s.retry = s.cfg.maxRetry
      · exact .inl ⟨.transferAborted, 0, if_pos h⟩
      · exact .inr (.inr ⟨h, if_neg h⟩)

/-- In EOT an answer raises an error, ends the transfer, or counts a retry below the ceiling. -/
theorem eotAnswer_cases (r : ReadResult) (s : State) :
    (∃ x info, eotAnswer r s = raiseError x info s) ∨ eotAnswer r s = finish s ∨
    (s.retry ≠ s.cfg.maxRetry ∧ eotAnswer r s = countRetry s) := by
  cases r with
  | ioError => exact .inl ⟨_, _, rfl⟩
  | timeout => exact .inl ⟨_, _, rfl⟩
  | byte b =>
    rw [eotAnswer]
    by_cases hb : b = ackByte
    · subst hb
      exact .inr (.inl rfl)
    · rw [eotResponse_responseOf_of_ne_ack hb, eotResponse_other]
      by_cases h : s.retry = s.cfg.maxRetry
      · exact .inl ⟨.transferAborted, 0, if_pos h⟩
      · exact .inr (.inr ⟨h, if_neg h⟩)

section Exchange
variable {s : State} {r : ReadResult} {l : Link}

theorem microOperation_of_frame_exchange {unit : List Byte} (hp : s.phase = .send)
    (hread : readFrame s = .next unit) (hex : s.link.exchange unit = (r, l)) :
    microOperation s = .next (frameAnswer r { s with link := l }) := by
  rw [microOperation_of_send hp, sendFrame, hread, andThen_next, hex]

theorem microOperation_of_eot_exchange (hp : s.phase = .eot) (hex : s.link.exchange [eotByte] = (r, l)) :
    microOperation s = .next (eotAnswer r { s with link := l }) := by
  rw [microOperation_of_eot hp, sendEot_eq, hex]

theorem exec_frmSend_of_send (hp : s.phase = .send) : exec .frmSend s = microOperation s := by
  rw [microOperation_of_send hp]
  exact if_pos hp

theorem exec_eotSend_of_eot (hp : s.phase = .eot) : exec .eotSend s = microOperation s := by
  rw [microOperation_of_eot hp]
  exact if_pos hp

/-- What a micro-operation in SEND leaves is an answer to the exchange of the frame. -/
theorem microOperation_send_eq_next {t : State} (hp : s.phase = .send) (h : microOperation s = .next t) :
    ∃ r l, t = frameAnswer r { s with link := l } := by
  rw [microOperation_of_send hp] at h
  rcases sendFrame_cases s with ⟨_, _, h'⟩ | ⟨_, _, h'⟩ <;> rw [h'] at h <;> cases h
  exact ⟨_, _, rfl⟩

/-- What a micro-operation in EOT leaves is an answer to the exchange of the byte 0x04. -/
theorem microOperation_eot_eq_next {t : State} (hp : s.phase = .eot) (h : microOperation s = .next t) :
    ∃ r l, t = eotAnswer r { s with link := l } := by
  rw [microOperation_of_eot hp, sendEot_eq] at h
  cases h
  exact ⟨_, _, rfl⟩

end Exchange

/-- Settles O28: by the conditions of XFER.START, the engine not running and PHASE = IDLE. -/
theorem xferStartWritesStartValues : Obligations.XferStartWritesStartValues := by
  unfold Obligations.XferStartWritesStartValues
  intro img s
  refine ⟨fun hp => execXferStart_of_idle hp img, fun hp => ?_, fun hp => hostOperation_of_running hp _⟩
  have hended : s.phase.running = false ∧ s.phase ≠ .idle := by rcases hp with hp | hp <;> rw [hp] <;> decide
  obtain ⟨hstopped, hidle⟩ := hended
  rw [exec, execXferStart, fromIdle, hostOperation_of_idle hstopped, if_neg hidle]

/-- Settles O29: FRM.SEND is the answer to its exchange, read case by case. -/
theorem frmSendAnswers : Obligations.FrmSendAnswers := by
  unfold Obligations.FrmSendAnswers
  intro s unit r l hp hread hex
  rw [exec_frmSend_of_send hp, microOperation_of_frame_exchange hp hread hex]
  refine ⟨?_, ?_, ?_, ?_, ?_, ?_, ?_⟩
  · rintro rfl heof
    exact congrArg _ (advance_of_more (s := { s with link := l }) heof)
  · rintro rfl heof
    exact congrArg _ (advance_of_last (s := { s with link := l }) heof)
  · rintro rfl hretry
    exact congrArg _ ((frameResponse_nak { s with link := l }).trans (if_neg hretry))
  · rintro rfl hretry
    exact congrArg _ ((frameResponse_nak { s with link := l }).trans (if_pos hretry))
  · rintro b rfl hack hnak
    rw [frameAnswer, responseOf_of_ne hack hnak]
    rfl
  · rintro rfl
    rfl
  · rintro rfl
    rfl

/-- Settles O30: EOT.SEND is the answer to its exchange, read case by case. -/
theorem eotSendAnswers : Obligations.EotSendAnswers := by
  unfold Obligations.EotSendAnswers
  intro s r l hp hex
  have hother : ∀ b, b ≠ ackByte → eotAnswer (.byte b) { s with link := l } =
      if s.retry = s.cfg.maxRetry then failed .transferAborted { s with link := l }
      else { s with link := l, retry := s.retry + 1 } := fun b hb => by
    rw [eotAnswer, eotResponse_responseOf_of_ne_ack hb, eotResponse_other]
  rw [exec_eotSend_of_eot hp, microOperation_of_eot_exchange hp hex]
  refine ⟨?_, ?_, ?_, ?_, ?_⟩
  · rintro rfl
    rfl
  · rintro b rfl hb hretry
    rw [hother b hb, if_neg hretry]
  · rintro b rfl hb hretry
    rw [hother b hb, if_pos hretry]
  · rintro rfl
    rfl
  · rintro rfl
    rfl

/-- Settles O42: the byte 0x04 is the engine's own unit in EOT; a frame is longer, so in SEND it is an answer. -/
theorem eotSymbolByPhase : Obligations.EotSymbolByPhase := by
  unfold Obligations.EotSymbolByPhase
  refine fun s unit => ⟨fun hp => ?_, fun hp hread => ?_, fun hsend heot => ?_⟩
  · have hown : exec .eot s = microOperation s := linkUnit_of_engineUnit (by simp [engineUnit, hp])
    exact ⟨hown.trans (exec_eotSend_of_eot hp).symm, _, hown.trans (microOperation_of_eot_exchange hp rfl)⟩
  · have hlong : unit ≠ [eotByte] := by
      rintro rfl
      have hlen := readFrame_length hread
      simp [frameLen] at hlen
    exact linkUnit_of_send hp hread hlong
  · have hnotOwn : engineUnit s ≠ some [eotByte] := by
      cases hp : s.phase with
      | build => exact engineUnit_ne_symbol_of_build hp eotByte
      | send => exact absurd hp hsend
      | eot => exact absurd hp heot
      | idle | done | error => simp [engineUnit, hp]
    exact linkUnit_of_arrival hnotOwn (by simp [hsend, heot])

/-! ## Where PHASE goes -/

/-- A micro-operation follows the rows of the transition table that the engine runs (42_transfer_fsm.md R117). -/
theorem microOperation_phase {s t : State} (h : microOperation s = .next t) :
    t.phase = s.phase ∨ (s.phase = .build ∧ (t.phase = .send ∨ t.phase = .error)) ∨
    (s.phase = .send ∧ (t.phase = .build ∨ t.phase = .eot ∨ t.phase = .error)) ∨
    (s.phase = .eot ∧ (t.phase = .done ∨ t.phase = .error)) := by
  cases hp : s.phase with
  | build =>
    rw [microOperation_of_build hp] at h
    rcases buildFrame_cases s with ⟨_, _, h'⟩ | ⟨_, _, _, h'⟩ <;> rw [h'] at h <;> cases h <;> simp
  | send =>
    obtain ⟨r, l, rfl⟩ := microOperation_send_eq_next hp h
    rcases frameAnswer_cases r { s with link := l } with ⟨_, _, h⟩ | h | ⟨_, h⟩ <;> rw [h]
    · simp
    · cases s.eof <;> simp
    · simp [hp]
  | eot =>
    obtain ⟨r, l, rfl⟩ := microOperation_eot_eq_next hp h
    rcases eotAnswer_cases r { s with link := l } with ⟨_, _, h⟩ | h | ⟨_, h⟩ <;> rw [h] <;> simp [hp]
  | idle | done | error =>
    simp only [microOperation, hp] at h
    cases h
    exact .inl hp

/-- A request served leaves PHASE, or starts a transfer. -/
theorem Served.phase {s t : State} (h : Served s t) : t.phase = s.phase ∨ (s.phase = .idle ∧ t.phase = .build) := by
  cases h with
  | registers | arrival => exact .inl rfl
  | start _ _ hidle => exact .inr ⟨hidle, rfl⟩

/-- Settles O56: a step is a micro-operation or a request served. -/
theorem phaseFollowsTable : Obligations.PhaseFollowsTable := by
  unfold Obligations.PhaseFollowsTable
  intro s t hr h
  rcases step_cases hr h with ⟨-, hm⟩ | ⟨-, hs⟩
  · exact (microOperation_phase hm).imp_right .inr
  · exact hs.phase.imp_right .inl

/-! ## The engine's next micro-operation -/

/-- In SEND every byte of FB has been written, so the frame can be sent (10_state.md R26). -/
def FrameReadable (s : State) : Prop := s.phase = .send → ∃ unit, readFrame s = .next unit

/-- Only an unwritten frame buffer keeps the engine from its micro-operation. -/
theorem FrameReadable.microOperation_answers {s : State} (h : FrameReadable s) : ∃ t, microOperation s = .next t := by
  cases hp : s.phase with
  | build =>
    rw [microOperation_of_build hp]
    rcases buildFrame_cases s with ⟨_, _, h'⟩ | ⟨_, _, _, h'⟩ <;> exact ⟨_, h'⟩
  | send =>
    obtain ⟨unit, hread⟩ := h hp
    exact ⟨_, microOperation_of_frame_exchange hp hread rfl⟩
  | eot => exact ⟨_, microOperation_of_eot_exchange hp rfl⟩
  | idle | done | error => exact ⟨s, by simp only [microOperation, hp]⟩

/-- In a sound state in SEND the frame buffer holds a frame (41_frame_encoder.md R92). -/
theorem Sound.frameReadable {s : State} (h : Sound s) : FrameReadable s := by
  obtain ⟨-, -, -, -, -, -, -, hsend⟩ := h
  intro hp
  obtain ⟨hfb, -⟩ := hsend hp
  exact ⟨_, readFrame_of_cells hfb (frame_length (List.length_take_le ..) s.blk)⟩

/-- Settles O55: a sound state can send its frame, and a requested reset is a step too. -/
theorem runningEngineSteps : Obligations.RunningEngineSteps := by
  unfold Obligations.RunningEngineSteps
  intro s h hp
  cases hr : s.resetReq with
  | true => exact ⟨_, step_of_resetReq hr⟩
  | false =>
    rw [step_of_running hr hp]
    exact h.frameReadable.microOperation_answers

end Sys2Proof.Machine

/-! PROOFS. The ends of the engine's runs (42_transfer_fsm.md R119, R127, R129): each micro-operation leaves fewer to
be done, so a run with a count that is large enough comes to the state it stops in. -/

namespace Sys2Proof.Machine

/-! ## Runs of micro-operations -/

section Runs
variable {stop : State → Bool} {s t : State}

theorem runUntil_of_stop (h : stop s = true) (k : Nat) : runUntil stop k s = .next s := by
  cases k <;> simp [runUntil, h]

theorem runUntil_succ (hs : stop s = false) (h : microOperation s = .next t) (k : Nat) :
    runUntil stop (k + 1) s = runUntil stop k t := by
  simp [runUntil, hs, h]

/-- A run stops within its count where every micro-operation keeps `P` and leaves less of `left` to be done. -/
theorem runUntil_stops {P : State → Prop} {left : State → Nat}
    (hstep : ∀ s, P s → stop s = false → ∃ t, microOperation s = .next t ∧ P t ∧ left t < left s) {k : Nat}
    (hs : P s) (hk : left s ≤ k) : ∃ t, runUntil stop k s = .next t ∧ P t ∧ stop t = true := by
  induction k generalizing s with
  | zero =>
    cases h : stop s with
    | true => exact ⟨s, rfl, hs, h⟩
    | false =>
      obtain ⟨t, -, -, hlt⟩ := hstep s hs h
      omega
  | succ k ih =>
    cases h : stop s with
    | true => exact ⟨s, runUntil_of_stop h _, hs, h⟩
    | false =>
      obtain ⟨t, hm, ht, hlt⟩ := hstep s hs h
      rw [runUntil_succ h hm]
      exact ih ht (by omega)

end Runs

/-! ## What keeps the frame readable -/

theorem FrameReadable.of_phase_ne {s : State} (h : s.phase ≠ .send) : FrameReadable s := fun hp => absurd hp h

/-- A frame just built can be sent, and a retry sends it again (41_frame_encoder.md R97, 42_transfer_fsm.md R105). -/
theorem microOperation_frameReadable {s t : State} (hs : FrameReadable s) (h : microOperation s = .next t) :
    FrameReadable t := by
  intro ht
  cases hp : s.phase with
  | build =>
    rw [microOperation_of_build hp] at h
    rcases buildFrame_cases s with ⟨_, _, h'⟩ | ⟨chunk, _, hread, h'⟩ <;> rw [h'] at h <;> cases h
    · cases ht
    · exact ⟨_, readFrame_of_writeRange rfl (frame_length (Source.read_length hread) s.blk)⟩
  | send =>
    obtain ⟨unit, hread⟩ := hs hp
    obtain ⟨-, -, hcfg⟩ := microOperation_keeps h
    obtain ⟨-, -, -, -, hfb, -⟩ := microOperation_sameFrameData (by simp [hp]) h
    exact ⟨unit, (readFrame_congr hcfg hfb).trans hread⟩
  | eot | idle | done | error =>
    have hmove := microOperation_phase h
    simp [hp, ht] at hmove

/-- No micro-operation makes the block idle (42_transfer_fsm.md R117). -/
theorem microOperation_phase_ne_idle {s t : State} (hs : s.phase ≠ .idle) (h : microOperation s = .next t) :
    t.phase ≠ .idle := by
  rcases microOperation_phase h with h | ⟨-, h | h⟩ | ⟨-, h | h | h⟩ | ⟨-, h | h⟩ <;> simp [h, hs]

/-! ## How much is left to be done -/

/-- The sends that are left until RETRY is at the ceiling and one more fails: MAX_SENDS of them from RETRY = 0
(42_transfer_fsm.md R119), in any case at most 16, as RETRY counts modulo 16. -/
def sendsLeft (s : State) : Nat := (s.cfg.maxRetry - s.retry).toNat + 1

theorem sendsLeft_of_retry_zero {s : State} (h : s.retry = 0) : sendsLeft s = maxSends s.cfg := by
  simp [sendsLeft, maxSends, h]

theorem sendsLeft_le (s : State) : sendsLeft s ≤ 16 := (s.cfg.maxRetry - s.retry).isLt

/-- A retry is one of the sends. -/
theorem sendsLeft_countRetry {s : State} (h : s.retry ≠ s.cfg.maxRetry) :
    sendsLeft (countRetry s) < sendsLeft s := by
  simp only [sendsLeft, countRetry_cfg, countRetry_retry]
  bv_omega

/-- The micro-operations that the frames not yet read from the source can take: for each one build and MAX_SENDS
sends (42_transfer_fsm.md R118, R119). -/
def unreadSteps (c : BuildConfig) (src : Source) : Nat :=
  ((src.img.length - src.pos) / payloadLen c.mode + 1) * (1 + maxSends c)

/-- There is always one more frame to come: the short or empty one that ends the transfer. -/
theorem le_unreadSteps (c : BuildConfig) (src : Source) : 1 + maxSends c ≤ unreadSteps c src :=
  Nat.le_mul_of_pos_left _ (Nat.succ_pos _)

/-- A full chunk read is one frame fewer. -/
theorem unreadSteps_of_full_read {c : BuildConfig} {src src' : Source} (himg : src'.img = src.img)
    (hpos : src'.pos = src.pos + payloadLen c.mode) (hfull : payloadLen c.mode ≤ src.img.length - src.pos) :
    unreadSteps c src = unreadSteps c src' + (1 + maxSends c) := by
  have hdiv : (src.img.length - src.pos) / payloadLen c.mode =
      (src.img.length - (src.pos + payloadLen c.mode)) / payloadLen c.mode + 1 := by
    rw [Nat.div_eq_sub_div (payloadLen_pos _) hfull, Nat.sub_sub]
  rw [unreadSteps, unreadSteps, himg, hpos, hdiv, Nat.succ_mul]

/-- The micro-operations that a transfer can still take (42_transfer_fsm.md R129). -/
def stepsLeft (s : State) : Nat :=
  match s.phase with
  | .build => unreadSteps s.cfg s.src + maxSends s.cfg
  | .send => sendsLeft s + (if s.eof then 0 else unreadSteps s.cfg s.src) + maxSends s.cfg
  | .eot => sendsLeft s
  | .idle | .done | .error => 0

section StepsLeft
variable {s : State}

theorem stepsLeft_of_build (hp : s.phase = .build) : stepsLeft s = unreadSteps s.cfg s.src + maxSends s.cfg := by
  simp [stepsLeft, hp]

theorem stepsLeft_of_send (hp : s.phase = .send) :
    stepsLeft s = sendsLeft s + (if s.eof then 0 else unreadSteps s.cfg s.src) + maxSends s.cfg := by
  simp [stepsLeft, hp]

theorem stepsLeft_of_eot (hp : s.phase = .eot) : stepsLeft s = sendsLeft s := by
  simp [stepsLeft, hp]

theorem stepsLeft_of_ended (hp : Ended s) : stepsLeft s = 0 := by
  rcases hp with hp | hp <;> simp [stepsLeft, hp]

theorem sendsLeft_pos (s : State) : 0 < sendsLeft s := Nat.succ_pos _

/-- FRM.BUILD gives up, or reads a frame that from then on can take its sends alone. -/
theorem stepsLeft_buildFrame {t : State} (hp : s.phase = .build) (h : buildFrame s = .next t) :
    stepsLeft t < stepsLeft s := by
  have hle := le_unreadSteps s.cfg s.src
  rw [stepsLeft_of_build hp]
  rcases buildFrame_cases s with ⟨_, _, h'⟩ | ⟨chunk, src, hread, h'⟩ <;> rw [h'] at h <;> cases h
  · rw [stepsLeft_of_ended (.inr rfl)]
    omega
  · obtain ⟨hchunk, himg, hpos⟩ := Source.read_some hread
    have hlen := congrArg List.length hchunk
    simp only [List.length_take, List.length_drop] at hlen
    rw [stepsLeft_of_send rfl, sendsLeft_of_retry_zero rfl]
    by_cases hshort : chunk.length < payloadLen s.cfg.mode
    · simp only [eofFlag, hshort, decide_true, if_true]
      omega
    · have hfull : chunk.length = payloadLen s.cfg.mode ∧
          payloadLen s.cfg.mode ≤ s.src.img.length - s.src.pos := by omega
      simp only [eofFlag, hshort, decide_false, Bool.false_eq_true, if_false]
      have hfewer := unreadSteps_of_full_read himg (hpos.trans (by rw [hfull.1])) hfull.2
      omega

theorem stepsLeft_frameAnswer (hp : s.phase = .send) (r : ReadResult) :
    stepsLeft (frameAnswer r s) < stepsLeft s := by
  have hpos := sendsLeft_pos s
  rw [stepsLeft_of_send hp]
  rcases frameAnswer_cases r s with ⟨_, _, h⟩ | h | ⟨hretry, h⟩ <;> rw [h]
  · rw [stepsLeft_of_ended (.inr rfl)]
    omega
  · cases he : s.eof with
    | true =>
      rw [stepsLeft_of_eot (by simp [he]), sendsLeft_of_retry_zero (by simp [he]), advance_cfg]
      omega
    | false =>
      rw [stepsLeft_of_build (by simp [he]), advance_cfg, advance_src]
      simp only [Bool.false_eq_true, if_false]
      omega
  · have hlt := sendsLeft_countRetry hretry
    rw [stepsLeft_of_send (s := countRetry s) hp, countRetry_cfg, countRetry_eof, countRetry_src]
    omega

theorem stepsLeft_eotAnswer (hp : s.phase = .eot) (r : ReadResult) :
    stepsLeft (eotAnswer r s) < stepsLeft s := by
  rw [stepsLeft_of_eot hp]
  rcases eotAnswer_cases r s with ⟨_, _, h⟩ | h | ⟨hretry, h⟩ <;> rw [h]
  · rw [stepsLeft_of_ended (.inr rfl)]
    exact sendsLeft_pos s
  · rw [stepsLeft_of_ended (.inl rfl)]
    exact sendsLeft_pos s
  · rw [stepsLeft_of_eot (s := countRetry s) hp]
    exact sendsLeft_countRetry hretry

/-- While the engine runs every micro-operation leaves less to be done. -/
theorem microOperation_stepsLeft {t : State} (hp : s.phase.running = true) (h : microOperation s = .next t) :
    stepsLeft t < stepsLeft s := by
  cases hp' : s.phase with
  | build => exact stepsLeft_buildFrame hp' (microOperation_of_build hp' ▸ h)
  | send =>
    obtain ⟨r, l, rfl⟩ := microOperation_send_eq_next hp' h
    exact stepsLeft_frameAnswer (s := { s with link := l }) hp' r
  | eot =>
    obtain ⟨r, l, rfl⟩ := microOperation_eot_eq_next hp' h
    exact stepsLeft_eotAnswer (s := { s with link := l }) hp' r
  | idle | done | error => rw [hp'] at hp; cases hp

end StepsLeft

theorem stepsLeft_startTransfer (img : List Byte) (s : State) :
    stepsLeft (startTransfer img s) = transferBound s.cfg img.length := rfl

/-- Where a frame can be sent and the block is not idle, the engine's run ends within the steps that are left. -/
theorem runUntil_ended {s : State} (hread : FrameReadable s) (hidle : s.phase ≠ .idle) {k : Nat}
    (hk : stepsLeft s ≤ k) : ∃ t, runUntil (fun u => !u.phase.running) k s = .next t ∧ Ended t := by
  have hstep : ∀ u, FrameReadable u ∧ u.phase ≠ .idle → (!u.phase.running) = false →
      ∃ v, microOperation u = .next v ∧ (FrameReadable v ∧ v.phase ≠ .idle) ∧ stepsLeft v < stepsLeft u := by
    rintro u ⟨hu, hne⟩ hrun
    obtain ⟨v, hv⟩ := hu.microOperation_answers
    exact ⟨v, hv, ⟨microOperation_frameReadable hu hv, microOperation_phase_ne_idle hne hv⟩,
      microOperation_stepsLeft (by simpa using hrun) hv⟩
  obtain ⟨t, hrun, ⟨-, hne⟩, hstop⟩ := runUntil_stops hstep ⟨hread, hidle⟩ hk
  refine ⟨t, hrun, ?_⟩
  cases ht : t.phase with
  | done => exact .inl ht
  | error => exact .inr ht
  | idle => exact absurd ht hne
  | build | send | eot => simp [ht, Phase.running] at hstop

/-- Settles O33: the count of XFER.RUN is what the whole transfer can take. -/
theorem xferRunEnds : Obligations.XferRunEnds := by
  unfold Obligations.XferRunEnds
  intro img s hp
  rw [exec, execXferRun, execXferStart_of_idle hp, andThen_next]
  exact runUntil_ended (.of_phase_ne (by simp)) (by simp) (stepsLeft_startTransfer img s).le

/-- The sends of the frame in FB that are left; none outside SEND. -/
def frameSendsLeft (s : State) : Nat := if s.phase = .send then sendsLeft s else 0

/-- In SEND an answer leaves the phase or uses one of the sends. -/
theorem frameSendsLeft_frameAnswer {s : State} (hp : s.phase = .send) (r : ReadResult) :
    frameSendsLeft (frameAnswer r s) < frameSendsLeft s := by
  rw [frameSendsLeft, frameSendsLeft, if_pos hp]
  rcases frameAnswer_cases r s with ⟨_, _, h⟩ | h | ⟨hretry, h⟩ <;> rw [h]
  · exact sendsLeft_pos s
  · rw [if_neg (by rw [advance_phase]; cases s.eof <;> simp)]
    exact sendsLeft_pos s
  · rw [countRetry_phase, if_pos hp]
    exact sendsLeft_countRetry hretry

theorem microOperation_frameSendsLeft {s t : State} (hp : s.phase = .send) (h : microOperation s = .next t) :
    frameSendsLeft t < frameSendsLeft s := by
  obtain ⟨r, l, rfl⟩ := microOperation_send_eq_next hp h
  exact frameSendsLeft_frameAnswer (s := { s with link := l }) hp r

/-- In SEND with a frame that can be sent, 16 sends at most lead out of SEND, to a phase other than IDLE and DONE. -/
theorem runUntil_leaves_send {s : State} (hp : s.phase = .send) (hread : FrameReadable s) :
    ∃ t, runUntil (fun u => u.phase != .send) 16 s = .next t ∧ t.phase ≠ .send ∧ t.phase ≠ .idle ∧
      t.phase ≠ .done := by
  have hstep : ∀ u, FrameReadable u ∧ u.phase ≠ .idle ∧ u.phase ≠ .done → (u.phase != .send) = false →
      ∃ v, microOperation u = .next v ∧ (FrameReadable v ∧ v.phase ≠ .idle ∧ v.phase ≠ .done) ∧
        frameSendsLeft v < frameSendsLeft u := by
    rintro u ⟨hu, -⟩ hsend
    have hup : u.phase = .send := by simpa using hsend
    obtain ⟨v, hv⟩ := hu.microOperation_answers
    have hvp := microOperation_phase hv
    simp only [hup, reduceCtorEq, true_and, false_and, false_or, or_false] at hvp
    refine ⟨v, hv, ⟨microOperation_frameReadable hu hv, ?_⟩, microOperation_frameSendsLeft hup hv⟩
    rcases hvp with h | h | h | h <;> simp [h]
  have hle : frameSendsLeft s ≤ 16 := by
    rw [frameSendsLeft, if_pos hp]
    exact sendsLeft_le s
  obtain ⟨t, hrun, ⟨-, hidle, hdone⟩, hstop⟩ := runUntil_stops hstep ⟨hread, by simp [hp]⟩ hle
  exact ⟨t, hrun, by simpa using hstop, hidle, hdone⟩

/-- Settles O31: 16 sends are enough for every RETRY; that FB and the source stay is the frame of FRM.SENDRETRY
(O47). -/
theorem frmSendretryLeavesSend : Obligations.FrmSendretryLeavesSend := by
  unfold Obligations.FrmSendretryLeavesSend
  intro s unit hp hread
  obtain ⟨t, hrun, hsend, hidle, hdone⟩ := runUntil_leaves_send hp fun _ => ⟨unit, hread⟩
  have hexec : exec .frmSendretry s = .next t := (if_pos hp).trans hrun
  obtain ⟨hframe, -⟩ := engineOperationsFrame .frmSendretry s t hexec
  obtain ⟨-, -, -, -, hfb, hsrc⟩ := hframe (by simp)
  exact ⟨t, hexec, hsend, hidle, hdone, hfb, hsrc⟩

end Sys2Proof.Machine

/-! PROOFS. The engine against a peer whose answers are scripted (42_transfer_fsm.md R118, R119): the retry ceiling of
a frame, and the transfer that a peer acknowledges throughout. -/

namespace Sys2Proof.Machine

/-! ## An exchange whose answer is scripted -/

theorem unitsWritten_append (a b : List LinkEvent) : unitsWritten (a ++ b) = unitsWritten a ++ unitsWritten b := by
  induction a with
  | nil => rfl
  | cons e a ih => cases e <;> simp [unitsWritten, ih]

/-- The link after an exchange of `unit` that the byte `b` answered, with the peer's turns after it. -/
def Link.heard (unit : List Byte) (b : Byte) (turns : List LinkTurn) (l : Link) : Link :=
  Link.answered unit b [] { l with turns := turns }

@[simp] theorem Link.heard_turns (unit : List Byte) (b : Byte) (turns : List LinkTurn) (l : Link) :
    (l.heard unit b turns).turns = turns := rfl

@[simp] theorem Link.heard_txStream (unit : List Byte) (b : Byte) (turns : List LinkTurn) (l : Link) :
    (l.heard unit b turns).txStream = l.txStream ++ unit := rfl

@[simp] theorem Link.heard_unitsWritten (unit : List Byte) (b : Byte) (turns : List LinkTurn) (l : Link) :
    unitsWritten (l.heard unit b turns).txLog = unitsWritten l.txLog ++ [unit] :=
  unitsWritten_append l.txLog (exchangeEvents unit (.byte b))

/-- The peer's next answer is what an exchange reads. -/
theorem Link.exchange_of_answerTurns {l : Link} {b : Byte} {turns : List LinkTurn}
    (h : l.turns = answerTurns b ++ turns) (unit : List Byte) :
    l.exchange unit = (.byte b, l.heard unit b turns) := by
  have hl : l = Link.answering [b] { l with turns := turns } := by
    unfold Link.answering
    cases l
    cases h
    rfl
  exact (congrArg (Link.exchange unit) hl).trans (Link.exchange_answering unit [] b _)

section Heard
variable {s : State} {b : Byte} {turns : List LinkTurn}

theorem microOperation_of_frame_answer {unit : List Byte} (hp : s.phase = .send) (hread : readFrame s = .next unit)
    (h : s.link.turns = answerTurns b ++ turns) :
    microOperation s = .next (frameResponse (responseOf b) { s with link := s.link.heard unit b turns }) :=
  microOperation_of_frame_exchange hp hread (Link.exchange_of_answerTurns h unit)

theorem microOperation_of_eot_answer (hp : s.phase = .eot) (h : s.link.turns = answerTurns b ++ turns) :
    microOperation s = .next (eotResponse (responseOf b) { s with link := s.link.heard [eotByte] b turns }) :=
  microOperation_of_eot_exchange hp (Link.exchange_of_answerTurns h [eotByte])

end Heard

/-! ## The retry ceiling -/

/-- A retry sends what the frame buffer held before (42_transfer_fsm.md R105). -/
theorem readFrame_of_retry (s : State) (r : BitVec 4) (l : Link) :
    readFrame { s with retry := r, link := l } = readFrame s := readFrame_congr rfl rfl

/-- A run of FRM.SENDRETRY over `j` NAKs that stay below the ceiling has counted and sent `j` times. -/
theorem runUntil_naks {unit : List Byte} {turns : List LinkTurn} (j k : Nat) {s : State} (hp : s.phase = .send)
    (hread : readFrame s = .next unit) (hj : s.retry.toNat + j ≤ s.cfg.maxRetry.toNat)
    (h : s.link.turns = answersTurns (List.replicate j nakByte) ++ turns) :
    ∃ l, l.turns = turns ∧ unitsWritten l.txLog = unitsWritten s.link.txLog ++ List.replicate j unit ∧
      runUntil (fun u => u.phase != .send) (j + k) s =
        runUntil (fun u => u.phase != .send) k { s with retry := s.retry + BitVec.ofNat 4 j, link := l } := by
  induction j generalizing s with
  | zero => exact ⟨s.link, h, by simp, by simp⟩
  | succ j ih =>
    have hturns : s.link.turns = answerTurns nakByte ++ (answersTurns (List.replicate j nakByte) ++ turns) := by
      rw [h, List.replicate_succ, answersTurns, List.flatMap_cons, List.append_assoc]
      rfl
    have hne : s.retry ≠ s.cfg.maxRetry := by
      rintro he
      rw [he] at hj
      omega
    have hsucc : (s.retry + 1).toNat = s.retry.toNat + 1 := by bv_omega
    have hnak := microOperation_of_frame_answer hp hread hturns
    rw [show responseOf nakByte = .nak from rfl, frameResponse_nak, if_neg hne] at hnak
    obtain ⟨l, hl, hunits, hrun⟩ := ih
      (s := { s with link := s.link.heard unit nakByte _, retry := s.retry + 1 }) hp
      ((readFrame_of_retry ..).trans hread) (by rw [hsucc]; simp only; omega) rfl
    refine ⟨l, hl, ?_, ?_⟩
    · rw [hunits, Link.heard_unitsWritten, List.replicate_succ, List.append_assoc]
      rfl
    · rw [show j + 1 + k = (j + k) + 1 by omega, runUntil_succ (by simp [hp]) hnak, hrun]
      congr 2
      simp only [BitVec.ofNat_add]
      ac_rfl

/-- From RETRY = 0 FRM.SENDRETRY passes `j` NAKs up to the ceiling, and ends by the byte after them where that
byte's answer leaves SEND: `j + 1` sends of the same unit. -/
theorem exec_frmSendretry_after_naks {s : State} {unit : List Byte} {turns : List LinkTurn} {j : Nat} {b : Byte}
    (hp : s.phase = .send) (hread : readFrame s = .next unit) (hretry : s.retry = 0) (hj : j ≤ s.cfg.maxRetry.toNat)
    (h : s.link.turns = answersTurns (List.replicate j nakByte ++ [b]) ++ turns) :
    ∃ l, unitsWritten l.txLog = unitsWritten s.link.txLog ++ List.replicate (j + 1) unit ∧
      ∀ t, t = frameResponse (responseOf b) { s with retry := BitVec.ofNat 4 j, link := l } → t.phase ≠ .send →
        exec .frmSendretry s = .next t := by
  have hmax : s.cfg.maxRetry.toNat < 16 := s.cfg.maxRetry.isLt
  have hturns : s.link.turns = answersTurns (List.replicate j nakByte) ++ (answerTurns b ++ turns) := by
    rw [h]
    simp [answersTurns]
  obtain ⟨l, hl, hunits, hrun⟩ := runUntil_naks j (15 - j + 1) hp hread (by simpa [hretry] using hj) hturns
  rw [hretry, zero_add] at hrun
  have hlast := microOperation_of_frame_answer (s := { s with retry := BitVec.ofNat 4 j, link := l }) hp
    ((readFrame_of_retry ..).trans hread) hl
  refine ⟨l.heard unit b turns, by simp [hunits, List.replicate_succ'], ?_⟩
  rintro t rfl ht
  rw [exec, execFrmSendretry, if_pos hp, show 16 = j + (15 - j + 1) by omega, hrun,
    runUntil_succ (by simp [hp]) hlast, runUntil_of_stop (by simpa using ht)]

/-- Settles O32: the exchange after the NAKs is acknowledged, or is the NAK at the ceiling. -/
theorem frmSendretryCeiling : Obligations.FrmSendretryCeiling := by
  unfold Obligations.FrmSendretryCeiling
  refine fun s unit turns hp hread hretry => ⟨fun k hk h => ?_, fun h => ?_⟩
  · obtain ⟨l, hunits, hexec⟩ := exec_frmSendretry_after_naks (b := ackByte) hp hread hretry hk h
    have hleave : (if s.eof then Phase.eot else .build) ≠ .send := by cases s.eof <;> simp
    exact ⟨advance _, hexec _ rfl ((advance_phase _).trans_ne hleave), by simp [hunits]⟩
  · obtain ⟨l, hunits, hexec⟩ := exec_frmSendretry_after_naks (b := nakByte) (j := s.cfg.maxRetry.toNat) hp hread
      hretry le_rfl (h.trans (by rw [maxSends, List.replicate_succ']; rfl))
    have hceiling : BitVec.ofNat 4 s.cfg.maxRetry.toNat = s.cfg.maxRetry := by simp
    have habort := (frameResponse_nak { s with retry := BitVec.ofNat 4 s.cfg.maxRetry.toNat, link := l }).trans
      (if_pos hceiling)
    exact ⟨_, hexec _ habort.symm (by simp [failed]), rfl, rfl, hceiling, rfl, rfl, hunits⟩

end Sys2Proof.Machine

/-! PROOFS. The transfer that the peer acknowledges throughout (42_transfer_fsm.md R118): what holds after `k`
acknowledged frames, kept by each build and its acknowledgement, and the EOT after the last frame. -/

namespace Sys2Proof.Machine

/-! ## The frames of an image -/

/-- The number of frames, floor(L / N) + 1 (42_transfer_fsm.md R118). -/
def frameCount (m : Mode) (img : List Byte) : Nat := img.length / payloadLen m + 1

/-- The ids of the first `k` frames. -/
def firstIds (k : Nat) : List Byte := (List.range k).map fun i => BitVec.ofNat 8 (i + 1)

/-- The first `k` frames of an image, each of its chunk (41_frame_encoder.md R92). -/
def firstFrames (m : Mode) (img : List Byte) (k : Nat) : List (List Byte) :=
  (List.range k).map fun i => frame m (chunkOf m img i) (BitVec.ofNat 8 (i + 1))

theorem firstIds_succ (k : Nat) : firstIds (k + 1) = firstIds k ++ [BitVec.ofNat 8 (k + 1)] := by
  simp [firstIds, List.range_succ]

theorem firstFrames_succ (m : Mode) (img : List Byte) (k : Nat) :
    firstFrames m img (k + 1) = firstFrames m img k ++ [frame m (chunkOf m img k) (BitVec.ofNat 8 (k + 1))] := by
  simp [firstFrames, List.range_succ]

theorem chunkOf_length (m : Mode) (img : List Byte) (k : Nat) :
    (chunkOf m img k).length = min (payloadLen m) (img.length - payloadLen m * k) := by
  simp [chunkOf]

theorem chunkOf_length_le (m : Mode) (img : List Byte) (k : Nat) : (chunkOf m img k).length ≤ payloadLen m :=
  List.length_take_le ..

theorem length_flatten_firstFrames (m : Mode) (img : List Byte) (k : Nat) :
    (firstFrames m img k).flatten.length = k * frameLen m := by
  induction k with
  | zero => simp [firstFrames]
  | succ k ih =>
    rw [firstFrames_succ, List.flatten_append, List.length_append, ih, List.flatten_singleton,
      frame_length (chunkOf_length_le m img k), Nat.succ_mul]

/-- The last chunk alone is short, empty where N divides the length (41_frame_encoder.md R88). -/
theorem eofFlag_chunkOf (m : Mode) (img : List Byte) (k : Nat) :
    eofFlag m (chunkOf m img k).length = decide (frameCount m img ≤ k + 1) := by
  have hn := payloadLen_pos m
  have hdiv : img.length / payloadLen m < k + 1 ↔ img.length < payloadLen m * k + payloadLen m := by
    rw [Nat.div_lt_iff_lt_mul hn, Nat.mul_comm, Nat.mul_succ]
  rw [eofFlag, chunkOf_length, frameCount, decide_eq_decide]
  omega

/-- A chunk ends where the next one begins, the last one at the end of the image. -/
theorem chunkOf_end {m : Mode} {img : List Byte} {k : Nat} (h : payloadLen m * k ≤ img.length) :
    payloadLen m * k + (chunkOf m img k).length = min (payloadLen m * (k + 1)) img.length := by
  rw [chunkOf_length, Nat.mul_succ]
  omega

/-! ## One frame -/

/-- The state after FRM.BUILD with a source read that delivered `chunk`. -/
def frameBuilt (chunk : List Byte) (src : Source) (s : State) : State :=
  { s with
    fb := s.fb.writeRange 0 (frame s.cfg.mode chunk s.blk)
    src := src
    rlen := BitVec.ofNat 11 chunk.length
    eof := eofFlag s.cfg.mode chunk.length
    acc := crc16 (payloadOf s.cfg.mode chunk)
    accWritten := true
    retry := 0
    phase := .send }

section OneFrame
variable {s : State} {chunk : List Byte} {src : Source}

theorem buildFrame_of_read (h : s.src.read (payloadLen s.cfg.mode) = (some chunk, src)) :
    buildFrame s = .next (frameBuilt chunk src s) := by
  rcases buildFrame_cases s with ⟨_, h', -⟩ | ⟨_, _, h', hb⟩ <;> rw [h] at h' <;> cases h'
  exact hb

theorem readFrame_frameBuilt (h : chunk.length ≤ payloadLen s.cfg.mode) :
    readFrame (frameBuilt chunk src s) = .next (frame s.cfg.mode chunk s.blk) :=
  readFrame_of_writeRange rfl (frame_length h s.blk)

/-- A frame is built, sent once and acknowledged. -/
theorem runUntil_build_ack {turns : List LinkTurn} (hp : s.phase = .build)
    (hread : s.src.read (payloadLen s.cfg.mode) = (some chunk, src))
    (h : s.link.turns = answerTurns ackByte ++ turns) (k : Nat) :
    runUntil (fun u => !u.phase.running) (k + 2) s =
      runUntil (fun u => !u.phase.running) k (advance { frameBuilt chunk src s with
        link := s.link.heard (frame s.cfg.mode chunk s.blk) ackByte turns }) := by
  have hbuild : microOperation s = .next (frameBuilt chunk src s) :=
    (microOperation_of_build hp).trans (buildFrame_of_read hread)
  have hack := microOperation_of_frame_answer (s := frameBuilt chunk src s) rfl
    (readFrame_frameBuilt (Source.read_length hread)) h
  rw [runUntil_succ (by rw [hp]; rfl) hbuild, runUntil_succ rfl hack]
  rfl

end OneFrame

/-! ## The transfer -/

/-- `t` is reached by XFER.RUN of `img` from `s` when `k` frames have been acknowledged; the source delivers the
rest of the image, and the peer acknowledges the rest of the frames and the EOT. -/
structure Acknowledged (img : List Byte) (s : State) (reads : List IoResult) (turns : List LinkTurn) (k : Nat)
    (t : State) : Prop where
  cfg : t.cfg = s.cfg
  phase : t.phase = if t.eof then .eot else .build
  eof : t.eof = decide (frameCount s.cfg.mode img ≤ k)
  err : t.err = .none
  retry : t.retry = 0
  blk : t.blk = BitVec.ofNat 8 (k + 1)
  prog : t.prog = firstIds k
  image : t.src.img = img
  pos : t.src.pos = min (payloadLen s.cfg.mode * k) img.length
  reads : t.src.turns = List.replicate (frameCount s.cfg.mode img - k) .ok ++ reads
  answers : t.link.turns = answersTurns (List.replicate (frameCount s.cfg.mode img + 1 - k) ackByte) ++ turns
  units : unitsWritten t.link.txLog = unitsWritten s.link.txLog ++ firstFrames s.cfg.mode img k
  stream : t.link.txStream = s.link.txStream ++ (firstFrames s.cfg.mode img k).flatten

section Transfer
variable {img : List Byte} {s t : State} {reads : List IoResult} {turns : List LinkTurn} {k : Nat}

theorem acknowledged_start (hreads : s.src.turns = List.replicate (frameCount s.cfg.mode img) .ok ++ reads)
    (hanswers : s.link.turns = answersTurns (List.replicate (frameCount s.cfg.mode img + 1) ackByte) ++ turns) :
    Acknowledged img s reads turns 0 (startTransfer img s) where
  cfg := rfl
  phase := rfl
  eof := by simp [frameCount]
  err := rfl
  retry := rfl
  blk := rfl
  prog := rfl
  image := rfl
  pos := by simp
  reads := hreads
  answers := hanswers
  units := by simp [firstFrames]
  stream := by simp [firstFrames]

/-- The next frame is built from the next chunk and acknowledged. -/
theorem Acknowledged.next (h : Acknowledged img s reads turns k t) (hk : k < frameCount s.cfg.mode img) (f : Nat) :
    ∃ u, Acknowledged img s reads turns (k + 1) u ∧
      runUntil (fun v => !v.phase.running) (f + 2) t = runUntil (fun v => !v.phase.running) f u := by
  have hle : payloadLen s.cfg.mode * k ≤ img.length := by
    rw [Nat.mul_comm, ← Nat.le_div_iff_mul_le (payloadLen_pos _)]
    exact Nat.le_of_lt_succ hk
  have heof : t.eof = false := by simpa [h.eof] using hk
  have hpos : t.src.pos = payloadLen s.cfg.mode * k := h.pos.trans (Nat.min_eq_left hle)
  have hreads : t.src.turns = .ok :: (List.replicate (frameCount s.cfg.mode img - (k + 1)) .ok ++ reads) := by
    rw [h.reads, show frameCount s.cfg.mode img - k = frameCount s.cfg.mode img - (k + 1) + 1 by omega,
      List.replicate_succ, List.cons_append]
  have hanswers : t.link.turns = answerTurns ackByte ++
      (answersTurns (List.replicate (frameCount s.cfg.mode img + 1 - (k + 1)) ackByte) ++ turns) := by
    rw [h.answers,
      show frameCount s.cfg.mode img + 1 - k = frameCount s.cfg.mode img + 1 - (k + 1) + 1 by omega,
      List.replicate_succ, answersTurns, List.flatMap_cons, List.append_assoc]
    rfl
  have hread := Source.read_of_ok (n := payloadLen t.cfg.mode) hreads
  rw [show (t.src.img.drop t.src.pos).take (payloadLen t.cfg.mode) = chunkOf s.cfg.mode img k by
    rw [h.image, hpos, h.cfg, chunkOf]] at hread
  refine ⟨_, ?_, runUntil_build_ack (by simp [h.phase, heof]) hread hanswers f⟩
  have hlast := eofFlag_chunkOf s.cfg.mode img k
  constructor
  case cfg => simp [frameBuilt, h.cfg]
  case phase => simp [frameBuilt]
  case eof => simp [frameBuilt, h.cfg, hlast]
  case err => simp [frameBuilt, h.err]
  case retry => simp [frameBuilt]
  case blk => simp [frameBuilt, h.blk, BitVec.ofNat_add]
  case prog => simp [frameBuilt, h.prog, h.blk, firstIds_succ]
  case image => simp [frameBuilt, h.image]
  case pos => simp [frameBuilt, hpos, chunkOf_end hle]
  case reads => simp [frameBuilt]
  case answers => simp [frameBuilt]
  case units => simp [frameBuilt, h.units, h.cfg, h.blk, firstFrames_succ]
  case stream => simp [frameBuilt, h.stream, h.cfg, h.blk, firstFrames_succ]

/-- Two micro-operations for each frame. -/
theorem Acknowledged.run (h : Acknowledged img s reads turns 0 t) (hk : k ≤ frameCount s.cfg.mode img) (f : Nat) :
    ∃ u, Acknowledged img s reads turns k u ∧
      runUntil (fun v => !v.phase.running) (2 * k + f) t = runUntil (fun v => !v.phase.running) f u := by
  induction k generalizing f with
  | zero => exact ⟨t, h, by rw [Nat.mul_zero, Nat.zero_add]⟩
  | succ k ih =>
    obtain ⟨u, hu, hrun⟩ := ih (by omega) (f + 2)
    obtain ⟨v, hv, hnext⟩ := hu.next hk f
    exact ⟨v, hv, by rw [show 2 * (k + 1) + f = 2 * k + (f + 2) by omega, hrun, hnext]⟩

/-- After the last frame the acknowledged EOT ends the transfer. -/
theorem Acknowledged.finishes (h : Acknowledged img s reads turns (frameCount s.cfg.mode img) t) (f : Nat) :
    runUntil (fun v => !v.phase.running) (f + 1) t =
      .next (finish { t with link := t.link.heard [eotByte] ackByte turns }) := by
  have hp : t.phase = .eot := by simp [h.phase, h.eof]
  have hanswer : t.link.turns = answerTurns ackByte ++ turns := by simp [h.answers, answersTurns]
  have heot := microOperation_of_eot_answer hp hanswer
  rw [runUntil_succ (by rw [hp]; rfl) heot]
  exact runUntil_of_stop rfl f

end Transfer

/-- The count of XFER.RUN is enough for one send of each frame and of the EOT. -/
theorem transferBound_ge (c : BuildConfig) (img : List Byte) :
    ∃ f, transferBound c img.length = 2 * frameCount c.mode img + (f + 1) := by
  refine ⟨frameCount c.mode img * c.maxRetry.toNat + c.maxRetry.toNat, ?_⟩
  rw [transferBound, ← frameCount, maxSends]
  ring

/-- Settles O34: every frame is acknowledged in its turn, and then the EOT. -/
theorem xferRunAllAcknowledged : Obligations.XferRunAllAcknowledged := by
  unfold Obligations.XferRunAllAcknowledged
  intro img s reads turns m count ids frames hp hreads hanswers
  obtain ⟨f, hbound⟩ := transferBound_ge s.cfg img
  obtain ⟨u, hu, hrun⟩ := (acknowledged_start hreads hanswers).run (k := count) le_rfl (f + 1)
  have hexec : exec (.xferRun img) s = .next (finish { u with link := u.link.heard [eotByte] ackByte turns }) := by
    rw [exec, execXferRun, execXferStart_of_idle hp, andThen_next, hbound]
    exact hrun.trans (hu.finishes f)
  have hend : img.length ≤ payloadLen m * count := (Nat.lt_mul_div_succ _ (payloadLen_pos m)).le
  refine ⟨_, hexec, rfl, hu.err, ?_, hu.retry, ?_, ?_, hu.prog, ?_, ?_, ?_, ?_⟩
  · rw [Nat.add_comm]
    exact hu.blk
  · exact hu.eof.trans (decide_eq_true le_rfl)
  · exact hu.pos.trans (Nat.min_eq_right hend)
  · rw [finish_link, Link.heard_unitsWritten, hu.units]
    rfl
  · rw [finish_link, Link.heard_txStream, hu.stream]
    rfl
  · rw [List.length_append]
    exact congrArg (· + 1) (length_flatten_firstFrames m img count)
  · rw [finish_reply, hu.err]

end Sys2Proof.Machine

/-! PROOFS. The frame decoder (43_decoder.md R132 to R138): the CRC as an injective function of the register and of
each byte, the check by the fields of a data unit, the frames as the valid byte sequences. -/

namespace Sys2Proof.Machine

/-! ## Byte pairs -/

theorem be16_toNat (h l : Byte) : (be16 h l).toNat = h.toNat * 256 + l.toNat := by
  rw [be16, BitVec.toNat_append, ← Nat.shiftLeft_add_eq_or_of_lt l.isLt, Nat.shiftLeft_eq]

theorem hi8_be16 (h l : Byte) : hi8 (be16 h l) = h := by
  have hl := l.isLt
  rw [← BitVec.toNat_inj, hi8_toNat, be16_toNat]
  omega

theorem lo8_be16 (h l : Byte) : lo8 (be16 h l) = l := by
  have hl := l.isLt
  rw [← BitVec.toNat_inj, lo8_toNat, be16_toNat]
  omega

/-- A half is its two bytes, high byte first (20_memory.md R32). -/
theorem be16_hi8_lo8 (v : Half) : be16 (hi8 v) (lo8 v) = v := by
  rw [← BitVec.toNat_inj, be16_toNat, hi8_toNat, lo8_toNat]
  omega

theorem eq_be16_iff {v : Half} {h l : Byte} : v = be16 h l ↔ h = hi8 v ∧ l = lo8 v := by
  constructor
  · rintro rfl
    exact ⟨(hi8_be16 h l).symm, (lo8_be16 h l).symm⟩
  · rintro ⟨rfl, rfl⟩
    exact (be16_hi8_lo8 v).symm

theorem lo8_zeroExtend (x : Byte) : lo8 (x.zeroExtend 16) = x := by
  have hx := x.isLt
  rw [← BitVec.toNat_inj, lo8_toNat, BitVec.zeroExtend, BitVec.toNat_setWidth]
  omega

/-! ## The generator loses nothing -/

/-- POLY is odd, so a round of 0 has shifted no bit out, and only a 0 has none to shift. -/
theorem eq_zero_of_crcRound_eq_zero {a : Half} (h : crcRound a = 0) : a = 0 := by
  have htop : a.getLsbD 15 = false := by
    cases htop : a.getLsbD 15 with
    | false => rfl
    | true =>
      have hlow : (crcRound a).getLsbD 0 = true := by simp [crcRound_eq, htop, crcFeedback, poly]
      rw [h] at hlow
      exact absurd hlow (by decide)
  rw [crcRound_of_top_clear htop] at h
  rw [getLsbD_top, decide_eq_false_iff_not] at htop
  bv_omega

theorem crcRounds_injective (k : Nat) {a b : Half} (h : crcRounds k a = crcRounds k b) : a = b := by
  induction k generalizing a b with
  | zero => exact h
  | succ k ih =>
    have hround : crcRound (a ^^^ b) = 0 := by
      rw [crcRound_xor, ih h]
      exact BitVec.xor_self
    exact BitVec.xor_eq_zero_iff.1 (eq_zero_of_crcRound_eq_zero hround)

/-- No two registers take a byte to the same register. -/
theorem crcByte_left_injective {a b : Half} {x : Byte} (h : crcByte a x = crcByte b x) : a = b :=
  (BitVec.xor_left_inj _).1 (crcRounds_injective 8 h)

/-- No two bytes take a register to the same register. -/
theorem crcByte_right_injective {a : Half} {x y : Byte} (h : crcByte a x = crcByte a y) : x = y := by
  have hbits : x.zeroExtend 16 <<< 8 = y.zeroExtend 16 <<< 8 := (BitVec.xor_right_inj _).1 (crcRounds_injective 8 h)
  have hhigh := congrArg hi8 hbits
  rwa [hi8_shiftLeft, hi8_shiftLeft, lo8_zeroExtend, lo8_zeroExtend] at hhigh

theorem crcFrom_injective {a b : Half} (s : List Byte) (h : crcFrom a s = crcFrom b s) : a = b := by
  induction s generalizing a b with
  | nil => exact h
  | cons x s ih => exact crcByte_left_injective (ih h)

/-- The CRC tells two sequences apart that differ in one byte (43_decoder.md R137). -/
theorem eq_of_crcFrom_eq {a : Half} {s t : List Byte} {i : Nat} (hlen : s.length = t.length)
    (hsame : ∀ j ≠ i, s[j]? = t[j]?) (h : crcFrom a s = crcFrom a t) : s = t := by
  induction s generalizing a t i with
  | nil => exact (List.length_eq_zero_iff.1 hlen.symm).symm
  | cons x s ih => cases t with
    | nil => cases hlen
    | cons y t => cases i with
      | zero =>
        have htail : s = t := List.ext_getElem? fun j => hsame (j + 1) (by simp)
        subst htail
        rw [crcByte_right_injective (crcFrom_injective s h)]
      | succ i =>
        have hhead : x = y := by simpa using hsame 0 (by simp)
        subst hhead
        rw [ih (Nat.succ.inj hlen) (fun j hj => hsame (j + 1) (by simpa using hj)) h]

/-- Settles O40: a register's own bytes clear it, and no other register is cleared by them. -/
theorem frameCheckResidueForm : Obligations.FrameCheckResidueForm := by
  unfold Obligations.FrameCheckResidueForm
  intro payload hi lo
  have hown : crcFrom (be16 hi lo) [hi, lo] = 0 := by
    have hclear := crcFrom_own_bytes (be16 hi lo)
    rwa [hi8_be16, lo8_be16] at hclear
  have hsplit : crc16 (payload ++ [hi, lo]) = crcFrom (crc16 payload) [hi, lo] := crcFrom_append 0 payload _
  rw [hsplit]
  exact ⟨fun h => h ▸ hown, fun h => crcFrom_injective [hi, lo] (h.trans hown.symm)⟩

/-! ## The check by the fields of a data unit -/

theorem exec_frmChk_of_idle {s : State} (hp : s.phase.running = false) (f : List Byte) :
    exec (.frmChk f) s = .next (giveReply (.check (checkFrame s.cfg.mode f)) s) :=
  hostOperation_of_idle hp _

theorem checkFrame_of_length_ne {m : Mode} {f : List Byte} (h : f.length ≠ frameLen m) :
    checkFrame m f = .invalid .badLength := if_pos h

/-- A sequence of the frame's length goes on to the other three tests (43_decoder.md R132). -/
theorem checkFrame_of_length {m : Mode} {f : List Byte} (h : f.length = frameLen m) :
    checkFrame m f =
      if f.getD 0 0 ≠ magicByte m then .invalid .badMagic
      else if f.getD 1 0 + f.getD 2 0 ≠ 255 then .invalid .badComplement
      else if crc16 ((f.drop 3).take (payloadLen m)) ≠
        be16 (f.getD (3 + payloadLen m) 0) (f.getD (3 + payloadLen m + 1) 0) then .invalid .badCrc
      else .valid (f.getD 1 0) ((f.drop 3).take (payloadLen m)) := if_neg (not_not.2 h)

theorem add_eq_ones_iff_toNat {x y : Byte} : x + y = 255 ↔ (x.toNat + y.toNat) % 256 = 255 := by
  rw [← BitVec.toNat_inj, BitVec.toNat_add]
  rfl

/-- Settles O37: the verdict of `checkFrame`, its tests read as arithmetic on the bytes. -/
theorem frmChkVerdict : Obligations.FrmChkVerdict := by
  unfold Obligations.FrmChkVerdict
  intro f s n answers magicOk complementOk crcOk
  refine ⟨fun hp => ?_, fun hp => hostOperation_of_running hp _⟩
  have hanswer {r : CheckResult} (hr : checkFrame s.cfg.mode f = r) : answers r :=
    hr ▸ exec_frmChk_of_idle hp f
  have hmagic (hlen : f.length = n + 5) : magicOk ↔ f.getD 0 0 = magicByte s.cfg.mode := by
    cases f with
    | nil => cases hlen
    | cons b bs => exact Option.some_inj
  have hcomplement : complementOk ↔ f.getD 1 0 + f.getD 2 0 = 255 := add_eq_ones_iff_toNat.symm
  have hcrc : crcOk ↔ crc16 ((f.drop 3).take n) = be16 (f.getD (3 + n) 0) (f.getD (3 + n + 1) 0) := by
    rw [← BitVec.toNat_inj, be16_toNat]
  refine ⟨fun hlen => hanswer (checkFrame_of_length_ne hlen), fun hlen hm => hanswer ?_,
    fun hlen hm hc => hanswer ?_, fun hlen hm hc hr => hanswer ?_, fun hlen hm hc hr => hanswer ?_⟩ <;>
    rw [checkFrame_of_length hlen]
  · rw [if_pos (mt (hmagic hlen).2 hm)]
  · rw [if_neg (not_not.2 ((hmagic hlen).1 hm)), if_pos (mt hcomplement.2 hc)]
  · rw [if_neg (not_not.2 ((hmagic hlen).1 hm)), if_neg (not_not.2 (hcomplement.1 hc)), if_pos (mt hcrc.2 hr)]
  · rw [if_neg (not_not.2 ((hmagic hlen).1 hm)), if_neg (not_not.2 (hcomplement.1 hc)),
      if_neg (not_not.2 (hcrc.1 hr))]

/-- The complement test of the decoder asks for the encoder's complement field (43_decoder.md R135). -/
theorem add_eq_ones_iff {id cmpl : Byte} : id + cmpl = 255 ↔ cmpl = complement id := by
  rw [complement]
  bv_omega

/-- A sequence of the frame's length has the fields of a data unit (30_encoding.md R50). -/
theorem exists_dataUnit_of_length {m : Mode} {f : List Byte} (h : f.length = frameLen m) :
    ∃ magic id cmpl payload hi lo, payload.length = payloadLen m ∧ f = dataUnit magic id cmpl payload hi lo := by
  match f, h with
  | magic :: bs, h =>
    have hbs : bs.length = payloadLen m + 4 := Nat.succ.inj h
    obtain ⟨⟨id, cmpl, payload, hi, lo, rest⟩, hsplit⟩ :=
      Option.isSome_iff_exists.1 (splitData_isSome.2 (Nat.le_of_eq hbs.symm))
    obtain ⟨hpayload, hfields⟩ := splitData_some hsplit
    have hrest : rest = [] := by
      have hsizes := congrArg List.length hfields
      simp only [List.length_cons, List.length_append, hbs, hpayload] at hsizes
      exact List.length_eq_zero_iff.1 (by omega)
    exact ⟨magic, id, cmpl, payload, hi, lo, hpayload, by rw [hfields, hrest, dataUnit]⟩

section Fields
variable {m : Mode} {magic id cmpl hi lo : Byte} {payload : List Byte} (hlen : payload.length = payloadLen m)
include hlen

theorem dataUnit_payload : ((dataUnit magic id cmpl payload hi lo).drop 3).take (payloadLen m) = payload := by
  simp [dataUnit, ← hlen]

theorem dataUnit_payload_getElem? (j : Nat) :
    payload[j]? = if j < payloadLen m then (dataUnit magic id cmpl payload hi lo)[3 + j]? else none := by
  rw [← List.getElem?_drop, ← List.getElem?_take, dataUnit_payload hlen]

theorem dataUnit_crcHi : (dataUnit magic id cmpl payload hi lo)[3 + payloadLen m]? = some hi := by
  simp [dataUnit, ← hlen, Nat.add_comm 3]

theorem dataUnit_crcLo : (dataUnit magic id cmpl payload hi lo)[3 + payloadLen m + 1]? = some lo := by
  simp [dataUnit, ← hlen, Nat.add_comm 3]

/-- The tests after the length are tests on the fields (43_decoder.md R132, R133). -/
theorem checkFrame_dataUnit : checkFrame m (dataUnit magic id cmpl payload hi lo) =
    if magic ≠ magicByte m then .invalid .badMagic
    else if id + cmpl ≠ 255 then .invalid .badComplement
    else if crc16 payload ≠ be16 hi lo then .invalid .badCrc
    else .valid id payload := by
  have hsize : (dataUnit magic id cmpl payload hi lo).length = frameLen m := by
    rw [dataUnit_length, hlen, frameLen]
  simp only [checkFrame_of_length hsize, dataUnit_payload hlen, List.getD_eq_getElem?_getD, dataUnit_crcHi hlen,
    dataUnit_crcLo hlen]
  rfl

/-- A payload of N bytes needs no zero fill (41_frame_encoder.md R87). -/
theorem payloadOf_of_full : payloadOf m payload = payload := by simp [payloadOf, hlen]

theorem frame_of_full : frame m payload id =
    dataUnit (magicByte m) id (complement id) payload (hi8 (crc16 payload)) (lo8 (crc16 payload)) := by
  rw [frame, payloadOf_of_full hlen]

end Fields

/-- The valid byte sequences are the frames, each with the id and the payload it was made of. -/
theorem checkFrame_eq_valid_iff {m : Mode} {f : List Byte} {id : Byte} {payload : List Byte} :
    checkFrame m f = .valid id payload ↔ payload.length = payloadLen m ∧ f = frame m payload id := by
  constructor
  · intro h
    by_cases hlen : f.length = frameLen m
    · obtain ⟨magic, id, cmpl, payload, hi, lo, hpayload, rfl⟩ := exists_dataUnit_of_length hlen
      rw [checkFrame_dataUnit hpayload] at h
      split_ifs at h with hmagic hcmpl hcrc
      cases h
      obtain ⟨rfl, rfl⟩ := eq_be16_iff.1 (not_not.1 hcrc)
      refine ⟨hpayload, ?_⟩
      rw [frame_of_full hpayload, not_not.1 hmagic, add_eq_ones_iff.1 (not_not.1 hcmpl)]
    · rw [checkFrame_of_length_ne hlen] at h
      cases h
  · rintro ⟨hlen, rfl⟩
    rw [frame_of_full hlen, checkFrame_dataUnit hlen, be16_hi8_lo8]
    simp [add_eq_ones_iff.2 rfl]

/-- The frame of a chunk is that of its payload. -/
theorem frame_payloadOf {m : Mode} {chunk : List Byte} (h : chunk.length ≤ payloadLen m) (id : Byte) :
    frame m (payloadOf m chunk) id = frame m chunk id := by
  rw [frame_of_full (payloadOf_length h), frame]

/-- Settles O38: the frames are the valid byte sequences, and the frame of a chunk is that of its payload. -/
theorem frameCheckRoundTrip : Obligations.FrameCheckRoundTrip := by
  unfold Obligations.FrameCheckRoundTrip
  exact ⟨fun _ _ id h => checkFrame_eq_valid_iff.2 ⟨payloadOf_length h, (frame_payloadOf h id).symm⟩,
    fun _ _ _ _ => checkFrame_eq_valid_iff.1⟩

/-! ## One byte in error -/

theorem complement_injective {id id' : Byte} (h : complement id = complement id') : id = id' := by
  rwa [complement, complement, BitVec.sub_right_inj] at h

/-- Two frames that agree in all bytes but one are the same: the id is in two bytes, and payloads that differ in one
byte have different CRCs. -/
theorem frame_eq_of_agree {m : Mode} {id id' : Byte} {p p' : List Byte} {i : Nat} (hp : p.length = payloadLen m)
    (hp' : p'.length = payloadLen m) (hsame : ∀ j ≠ i, (frame m p id)[j]? = (frame m p' id')[j]?) :
    frame m p id = frame m p' id' := by
  rw [frame_of_full hp, frame_of_full hp'] at hsame
  have hid : id = id' := by
    by_cases hi : i = 1
    · exact complement_injective (Option.some.inj (hsame 2 (by omega)))
    · exact Option.some.inj (hsame 1 (by omega))
  have hbyte {j : Nat} (hj : 3 + j ≠ i) : p[j]? = p'[j]? := by
    rw [dataUnit_payload_getElem? hp, dataUnit_payload_getElem? hp', hsame (3 + j) hj]
  have hpayload : p = p' := by
    by_cases hi : i < 3 + payloadLen m
    · have hhi := hsame (3 + payloadLen m) (by omega)
      have hlo := hsame (3 + payloadLen m + 1) (by omega)
      rw [dataUnit_crcHi hp, dataUnit_crcHi hp', Option.some_inj] at hhi
      rw [dataUnit_crcLo hp, dataUnit_crcLo hp', Option.some_inj] at hlo
      have hcrc : crc16 p = crc16 p' := by rw [← be16_hi8_lo8 (crc16 p), hhi, hlo, be16_hi8_lo8]
      exact eq_of_crcFrom_eq (i := i - 3) (hp.trans hp'.symm) (fun j hj => hbyte (by omega)) hcrc
    · refine List.ext_getElem? fun j => ?_
      by_cases hj : j < payloadLen m
      · exact hbyte (by omega)
      · rw [List.getElem?_eq_none (by omega), List.getElem?_eq_none (by omega)]
  rw [hid, hpayload]

theorem flipBit_getElem?_of_ne (f : List Byte) {i j : Nat} (k : Nat) (h : j ≠ i) : (flipBit f i k)[j]? = f[j]? := by
  simp [flipBit, h.symm]

theorem flipBit_ne_self {f : List Byte} {i k : Nat} (hi : i < f.length) (hk : k < 8) : flipBit f i k ≠ f := by
  intro h
  have hbyte : f[i] ^^^ (1#8 <<< k) = f[i] := by
    have hget := congrArg (·[i]?) h
    simpa [flipBit, hi] using hget
  have hbit := congrArg (BitVec.getLsbD · k) hbyte
  simp [hk] at hbit

/-- Settles O39: were both valid they would be two frames that differ in one byte. -/
theorem singleBitErrorDetected : Obligations.SingleBitErrorDetected := by
  unfold Obligations.SingleBitErrorDetected
  intro m f id p i k hvalid hi hk
  cases hflip : checkFrame m (flipBit f i k) with
  | invalid reason => exact ⟨reason, rfl⟩
  | valid id' p' =>
    obtain ⟨hp, hf⟩ := checkFrame_eq_valid_iff.1 hvalid
    obtain ⟨hp', hf'⟩ := checkFrame_eq_valid_iff.1 hflip
    have hlen : f.length = frameLen m := by rw [hf, frame_length hp.le]
    have hsame : ∀ j ≠ i, (frame m p' id')[j]? = (frame m p id)[j]? := fun j hj => by
      rw [← hf, ← hf', flipBit_getElem?_of_ne f k hj]
    have heq : flipBit f i k = f := hf'.trans ((frame_eq_of_agree hp' hp hsame).trans hf.symm)
    exact absurd heq (flipBit_ne_self (hlen ▸ hi) hk)

end Sys2Proof.Machine

/-! PROOFS. The response decoder and the peer's symbols in every phase (43_decoder.md R130, R131; 30_encoding.md R57 to
R60). -/

namespace Sys2Proof.Machine

/-- Settles O36: by the byte that RSP.DEC compares. -/
theorem rspDecClassifies : Obligations.RspDecClassifies := by
  unfold Obligations.RspDecClassifies
  refine fun b s => ⟨responseOf b, rfl, ?_, ?_, fun ⟨hack, hnak⟩ => responseOf_of_ne hack hnak⟩
  · rintro rfl
    rfl
  · rintro rfl
    rfl

/-- A frame is longer than a symbol. -/
theorem readFrame_ne_symbol {s : State} {unit : List Byte} (h : readFrame s = .next unit) (b : Byte) :
    unit ≠ [b] := by
  rintro rfl
  have hlen := readFrame_length h
  simp [frameLen] at hlen

section Symbol
variable {s : State} {b : Byte}

/-- In SEND a symbol is the answer of the frame's exchange (43_decoder.md R131). -/
theorem linkUnit_symbol_of_send {unit : List Byte} (hp : s.phase = .send) (hread : readFrame s = .next unit) :
    linkUnit [b] s = .next (frameResponse (responseOf b) { s with link := s.link.answered unit b [] }) :=
  linkUnit_of_send hp hread (readFrame_ne_symbol hread b)

/-- In EOT a symbol that is neither EOT nor ACK is a retry, at the ceiling the abort (42_transfer_fsm.md R113,
R114). -/
theorem linkUnit_symbol_of_eot (hp : s.phase = .eot) (heot : b ≠ eotByte) (hack : b ≠ ackByte) :
    linkUnit [b] s = .next
      (if s.retry = s.cfg.maxRetry then failed .transferAborted { s with link := s.link.answered [eotByte] b [] }
      else { s with link := s.link.answered [eotByte] b [], retry := s.retry + 1 }) := by
  rw [linkUnit_of_eot hp (by simpa using heot.symm), eotResponse_responseOf_of_ne_ack hack, eotResponse_other]

/-- Outside SEND and EOT a symbol reaches RXBUF (10_state.md R22). -/
theorem linkUnit_symbol_of_no_exchange (hsend : s.phase ≠ .send) (heot : s.phase ≠ .eot) :
    linkUnit [b] s = .next (arriveBytes [b] s) := by
  have hnotOwn : engineUnit s ≠ some [b] := by
    cases hp : s.phase with
    | build => exact engineUnit_ne_symbol_of_build hp b
    | send => exact absurd hp hsend
    | eot => exact absurd hp heot
    | idle | done | error => simp [engineUnit, hp]
  exact linkUnit_of_arrival hnotOwn (by simp [hsend, heot])

end Symbol

/-- Settles O41: each symbol is a unit on the link, of one byte that is the engine's own in no phase. -/
theorem peerSymbolsByPhase : Obligations.PeerSymbolsByPhase := by
  unfold Obligations.PeerSymbolsByPhase
  intro s unit
  refine ⟨fun hp hread => ?_, fun hp => ⟨?_, ?_⟩, fun hsend heot => ?_⟩
  · have hack : exec .ack s = .next (advance { s with link := s.link.answered unit ackByte [] }) :=
      linkUnit_symbol_of_send hp hread
    have hnak : exec .nak s = .next (frameResponse .nak { s with link := s.link.answered unit nakByte [] }) :=
      linkUnit_symbol_of_send hp hread
    rw [frameResponse_nak] at hnak
    refine ⟨fun heof => ?_, fun heof => ?_, fun hretry => ?_, fun hretry => ?_,
      linkUnit_symbol_of_send hp hread, linkUnit_symbol_of_send hp hread⟩
    · exact hack.trans (congrArg _ (advance_of_more (s := { s with link := _ }) heof))
    · exact hack.trans (congrArg _ (advance_of_last (s := { s with link := _ }) heof))
    · exact hnak.trans (congrArg _ (if_neg hretry))
    · exact hnak.trans (congrArg _ (if_pos hretry))
  · exact linkUnit_of_eot hp (by decide)
  · intro ib hib
    have hsymbol : exec ib.1 s = linkUnit [ib.2] s ∧ ib.2 ≠ eotByte ∧ ib.2 ≠ ackByte := by
      simp only [List.mem_cons, List.not_mem_nil, or_false] at hib
      rcases hib with rfl | rfl | rfl <;> exact ⟨rfl, by decide, by decide⟩
    obtain ⟨hexec, heot, hack⟩ := hsymbol
    rw [hexec, linkUnit_symbol_of_eot hp heot hack]
    exact ⟨fun hretry => congrArg _ (if_neg hretry), fun hretry => congrArg _ (if_pos hretry)⟩
  · intro ib hib
    have hexec : exec ib.1 s = linkUnit [ib.2] s := by
      simp only [List.mem_cons, List.not_mem_nil, or_false] at hib
      rcases hib with rfl | rfl | rfl | rfl <;> rfl
    exact hexec.trans (linkUnit_symbol_of_no_exchange hsend heot)

end Sys2Proof.Machine

/-! PROOFS. Errors and the end of a run (60_exceptions.md): DONE and ERROR are left by nothing but a reset (R154), and
each error is raised in the phase its row names (R145 to R150). -/

namespace Sys2Proof.Machine

/-! ## The ends of a run -/

theorem Ended.running {s : State} (h : Ended s) : s.phase.running = false := by
  rcases h with hp | hp <;> rw [hp] <;> rfl

theorem Ended.phase_ne_idle {s : State} (h : Ended s) : s.phase ≠ .idle := by
  rcases h with hp | hp <;> rw [hp] <;> decide

/-- Settles O57: no engine runs in DONE or ERROR, and a request served there writes ACC and the reply or adds to
RXBUF, for no transfer starts outside IDLE. -/
theorem endIsAbsorbing : Obligations.EndIsAbsorbing := by
  unfold Obligations.EndIsAbsorbing
  intro s t hend hr h
  rcases step_cases hr h with ⟨hrun, -⟩ | ⟨-, hserved⟩
  · exact absurd hrun (by simp [hend.running])
  · cases hserved with
    | registers | arrival => exact ⟨rfl, rfl, rfl, rfl, rfl, rfl⟩
    | start _ _ hidle => exact absurd hidle hend.phase_ne_idle

/-! ## The errors of an answer -/

/-- The errors that an exchange raises in SEND and in EOT alike (60_exceptions.md R145, R146, R147). -/
def ExchangeError (x : ErrCode) : Prop := x = .linkIoError ∨ x = .linkTimeout ∨ x = .transferAborted

/-- An error that an answer raises in SEND is an exchange's, or is the refusal of a byte that is neither ACK nor NAK
(42_transfer_fsm.md R104 to R108). -/
theorem frameAnswer_enters_error {r : ReadResult} {s : State} (hp : s.phase ≠ .error)
    (h : (frameAnswer r s).phase = .error) :
    ExchangeError (frameAnswer r s).err ∨
    ∃ b, r = .byte b ∧ b ≠ ackByte ∧ b ≠ nakByte ∧ frameAnswer r s = raiseError .unknownProtocolByte b s := by
  cases r with
  | ioError => exact .inl (.inl rfl)
  | timeout => exact .inl (.inr (.inl rfl))
  | byte b =>
    by_cases hack : b = ackByte
    · subst hack
      have hadvance : (advance s).phase = .error := h
      cases heof : s.eof <;> simp [heof] at hadvance
    by_cases hnak : b = nakByte
    · subst hnak
      have hanswer : frameAnswer (.byte nakByte) s = _ := frameResponse_nak s
      rw [hanswer] at h ⊢
      split at h
      next hretry => exact .inl (.inr (.inr (by rw [if_pos hretry]; rfl)))
      next => exact absurd h hp
    · exact .inr ⟨b, rfl, hack, hnak, by rw [frameAnswer, responseOf_of_ne hack hnak]; rfl⟩

/-- An error that an answer raises in EOT is an exchange's (42_transfer_fsm.md R112 to R115). -/
theorem eotAnswer_enters_error {r : ReadResult} {s : State} (hp : s.phase ≠ .error)
    (h : (eotAnswer r s).phase = .error) : ExchangeError (eotAnswer r s).err := by
  cases r with
  | ioError => exact .inl rfl
  | timeout => exact .inr (.inl rfl)
  | byte b =>
    by_cases hack : b = ackByte
    · subst hack
      cases h
    · rw [eotAnswer, eotResponse_responseOf_of_ne_ack hack, eotResponse_other] at h ⊢
      split at h
      next hretry => exact .inr (.inr (by rw [if_pos hretry]; rfl))
      next => exact absurd h hp

/-- The byte that an exchange reads is the last event it logs (20_memory.md R41). -/
theorem Link.exchange_getLast? {unit : List Byte} {l : Link} {b : Byte} (h : (l.exchange unit).1 = .byte b) :
    (l.exchange unit).2.txLog.getLast? = some (.read (.byte b)) := by
  obtain ⟨hlog, -⟩ := Link.exchange_of_ne_ioError (unit := unit) (l := l) (by simp [h])
  simp [hlog, h, exchangeEvents]

/-! ## The errors by phase -/

/-- FRM.BUILD enters ERROR only where its source read fails (60_exceptions.md R149). -/
theorem buildFrame_enters_error {s t : State} (h : buildFrame s = .next t) (ht : t.phase = .error) :
    t.err = .sourceIoError := by
  rcases buildFrame_cases s with ⟨_, _, h'⟩ | ⟨_, _, _, h'⟩ <;> rw [h'] at h <;> cases h
  · rfl
  · cases ht

/-- FRM.SEND enters ERROR by its exchange, or by the byte it read last, which ERRINFO then holds (60_exceptions.md
R145 to R148). -/
theorem sendFrame_enters_error {s t : State} (hp : s.phase ≠ .error) (h : sendFrame s = .next t)
    (ht : t.phase = .error) :
    ExchangeError t.err ∨
    (t.err = .unknownProtocolByte ∧ t.link.txLog.getLast? = some (.read (.byte t.errinfo)) ∧
      t.errinfo ≠ ackByte ∧ t.errinfo ≠ nakByte) := by
  rcases sendFrame_cases s with ⟨_, _, h'⟩ | ⟨unit, _, h'⟩ <;> rw [h'] at h <;> cases h
  refine (frameAnswer_enters_error (s := { s with link := (s.link.exchange unit).2 }) hp ht).imp_right ?_
  rintro ⟨b, hread, hack, hnak, hanswer⟩
  rw [hanswer]
  exact ⟨rfl, Link.exchange_getLast? hread, hack, hnak⟩

/-- Settles O59: only the engine enters ERROR, by the micro-operation of its phase. -/
theorem errorsByPhase : Obligations.ErrorsByPhase := by
  unfold Obligations.ErrorsByPhase
  intro s t hr hne h ht
  rcases step_cases hr h with ⟨hrun, hm⟩ | ⟨-, hserved⟩
  · cases hp : s.phase with
    | build =>
      rw [microOperation_of_build hp] at hm
      exact .inl ⟨rfl, buildFrame_enters_error hm ht⟩
    | send =>
      rw [microOperation_of_send hp] at hm
      rcases sendFrame_enters_error hne hm ht with herr | hbyte
      · exact .inr (.inl ⟨.inl rfl, herr⟩)
      · exact .inr (.inr ⟨rfl, hbyte⟩)
    | eot =>
      obtain ⟨r, l, rfl⟩ := microOperation_eot_eq_next hp hm
      exact .inr (.inl ⟨.inr rfl, eotAnswer_enters_error (s := { s with link := l }) hne ht⟩)
    | idle | done | error => rw [hp] at hrun; cases hrun
  · rcases hserved.phase with hsame | ⟨-, hbuild⟩
    · exact absurd (hsame.symm.trans ht) hne
    · rw [hbuild] at ht
      cases ht

end Sys2Proof.Machine

/-! PROOFS. Reset and the idle block (70_reset_and_hazards.md R170 to R173): the state after reset, a requested
hardware reset as a whole step, and the wait for a request. -/

namespace Sys2Proof.Machine

/-- A frame buffer in which nothing is written holds no byte at any index (10_state.md R26). -/
theorem Memory.read_nil (i : Nat) : Memory.read [] i = none := rfl

/-- A frame buffer in which nothing is written is canonical (20_memory.md R31). -/
theorem frameBufferOk_of_fb_eq_nil {s : State} (h : s.fb = []) : FrameBufferOk s := by
  simp [FrameBufferOk, h]

/-- An idle block without error is sound as soon as the frame buffer, the source and the link are in order: the
counters are claimed only of a running or finished transfer. -/
theorem sound_of_idle {s : State} (hp : s.phase = .idle) (he : s.err = .none) (hfb : FrameBufferOk s)
    (hsrc : SourceOk s) (hflush : FlushOk s) : Sound s := by
  refine ⟨hfb, hsrc, hflush, ?retry, ?err, ?transfer⟩
  case retry => simp [RetryOk, hp]
  case err => simp [ErrOk, hp, he]
  case transfer => simp [TransferOk, hp]

/-- Settles O1: by the fields of the state after reset; nothing has written ACC or FB. -/
theorem resetLeavesIdleBlock : Obligations.ResetLeavesIdleBlock := by
  unfold Obligations.ResetLeavesIdleBlock
  exact ⟨rfl, rfl, rfl, rfl, readAcc_of_unwritten rfl, Memory.read_nil, rfl, rfl⟩

/-- Settles O2: the fetch finds neither a reset, nor a micro-operation, nor a request. -/
theorem idleBlockWaits : Obligations.IdleBlockWaits := by
  unfold Obligations.IdleBlockWaits
  exact fun _ hp hin hr => step_of_no_request hr hp hin

/-- Settles O3: the step is the hardware reset, which sets or keeps each field as stated. -/
theorem hardwareResetFromAnyPhase : Obligations.HardwareResetFromAnyPhase := by
  unfold Obligations.HardwareResetFromAnyPhase
  intro s hr
  exact ⟨hardwareReset s, step_of_resetReq hr, hardwareReset_phase s, hardwareReset_err s,
    hardwareReset_accWritten s, Memory.read_nil, hardwareReset_link s, hardwareReset_src s, hardwareReset_cfg s,
    hardwareReset_prog s, hardwareReset_inputs s, hardwareReset_resetReq s⟩

/-- Settles O49: the state after reset is idle, its frame buffer unwritten, its source and link empty. -/
theorem resetIsSound : Obligations.ResetIsSound := by
  unfold Obligations.ResetIsSound
  have hsrc : SourceOk State.reset := Nat.zero_le _
  have hflush : FlushOk State.reset := Nat.zero_le _
  exact sound_of_idle rfl rfl (frameBufferOk_of_fb_eq_nil rfl) hsrc hflush

end Sys2Proof.Machine
